-- ==== Sys2Proof/Word.lean ====
section
/-! DEFINITION. The one data width of the block: every data quantity is an unsigned 8-bit value
(00_scope rule R12). -/

namespace Sys2Proof

/-- `u8` of the spec's notation: an unsigned byte (00_scope rule R12, section 6). -/
abbrev Byte := BitVec 8

end Sys2Proof
end

