-- ==== Sys2Proof/Config.lean ====
section
/-! DEFINITION. The implementation parameters (00_scope rules R6 to R11): the constants the spec fixes,
and the three it leaves open as opaque constants, of which nothing can be proved but what holds for every value. -/

namespace Sys2Proof.Config

/-- `W_MAX`, the largest pulse width in time-steps (00_scope rule R7). -/
@[simp] abbrev wMax : Byte := 250#8

/-- `DISABLE`, the sentinel "channel disabled, never asserted" (00_scope rule R7). -/
@[simp] abbrev disable : Byte := 251#8

/-- `RESET_BYTE`, the byte that resets the command framer (00_scope rule R8, decision D5). -/
@[simp] abbrev resetByte : Byte := 252#8

/-- `AUX_IDX`, the Target Table index of the auxiliary output (00_scope rule R6). -/
@[simp] abbrev auxIdx : Byte := 8#8

/-- `IDLE_LIMIT`: Idle ends when the in-cycle tick counter exceeds it (00_scope rule R9). -/
@[simp] abbrev idleLimit : Byte := 16#8

/-- `W_LEN`, the number of Waveform Table entries (00_scope rule R7). -/
@[simp] abbrev wLen : Nat := 251

/-- `IDLE_TICKS` (00_scope rule R9). -/
@[simp] abbrev idleTicks : Nat := 17

/-- `CYCLE_TICKS` (00_scope rule R9). -/
@[simp] abbrev cycleTicks : Nat := 1 + 1 + idleTicks

/-- `STEP_CYCLES`, the period of the step timer in clock cycles: an OPEN parameter (00_scope rule R11,
decision D21; log 4). -/
opaque stepCycles : Nat

/-- `CLK_HZ`, the clock frequency: an OPEN parameter (00_scope rule R11, decision D21). -/
opaque clkHz : Nat

/-- `BUILD_CYCLES`, how many clock cycles a build takes: an OPEN parameter that no event rule reads
(70_reset_and_hazards rule R271, decision D19). -/
opaque buildCycles : Nat

end Sys2Proof.Config
end

