-- ==== Sys2Proof/Syntax.lean ====
section
/-! DEFINITION. The commands of the byte stream: one constructor per row of spec/opcode_table.json
(30_encoding rule R97), the two pseudo-commands of rule R102 among them (log 9). -/

namespace Sys2Proof

/-- A command. `ch` is the three-bit field `ccc` of the table; every other operand is a whole byte
(30_encoding rules R91, R93, R94). -/
inductive Instr where
  /-- `SYNC`: the reset byte alone, format F1 (41_command_framer rules R121, R134). -/
  | sync
  /-- `SETW ch, w`: set the pulse width of a channel (41_command_framer rule R124). -/
  | setw (ch : BitVec 3) (w : Byte)
  /-- `DIS ch`: disable a channel (41_command_framer rule R125). -/
  | dis (ch : BitVec 3)
  /-- `SETX ch, x`: a pulse-channel value 253 to 255 (41_command_framer rule R126). -/
  | setx (ch : BitVec 3) (x : Byte)
  /-- `AUX v`: set the auxiliary output (41_command_framer rule R127). -/
  | aux (v : Byte)
  /-- `SKIP c, v`: a pair with an invalid channel byte (41_command_framer rule R128). -/
  | skip (c v : Byte)
  /-- `ABORT c`: a pair cut short by the reset byte (41_command_framer rule R129). -/
  | abort (c : Byte)
  /-- `AUXON`: pseudo-command for `AUX 1` (30_encoding rule R102). -/
  | auxon
  /-- `AUXOFF`: pseudo-command for `AUX 0` (30_encoding rule R102). -/
  | auxoff
  deriving DecidableEq, Repr

/-- What a pseudo-command stands for ("expands_to" of opcode_table.json); a core command is itself. -/
def Instr.expand : Instr → Instr
  | .sync => .sync
  | .setw ch w => .setw ch w
  | .dis ch => .dis ch
  | .setx ch x => .setx ch x
  | .aux v => .aux v
  | .skip c v => .skip c v
  | .abort c => .abort c
  | .auxon => .aux 1#8
  | .auxoff => .aux 0#8

end Sys2Proof
end

