-- ==== Sys2Proof/WellFormed.lean ====
section
/-! DEFINITION. Which operand values each command admits: the "constraint" of its row of
spec/opcode_table.json (30_encoding rule R97). -/

namespace Sys2Proof

/-- A byte that is not the reset byte, so that it can be a channel byte or a value byte (30_encoding
rules R93 to R95). -/
def isDataByte (b : Byte) : Bool := b != Config.resetByte

/-- The operands are ones the encoding admits (30_encoding rule R97). -/
def Instr.wf : Instr → Bool
  | .sync => true
  | .setw _ w => decide (w ≤ Config.wMax)
  | .dis _ => true
  | .setx _ x => decide (Config.resetByte < x)
  | .aux v => isDataByte v
  | .skip c v => decide (Config.auxIdx < c) && isDataByte c && isDataByte v
  | .abort c => isDataByte c
  | .auxon => true
  | .auxoff => true

end Sys2Proof
end

