-- ==== Sys2Proof/Decode.lean ====
section
/-! DEFINITION. Reading commands from bytes and writing them as bytes (30_encoding rules R90 to R103). -/

namespace Sys2Proof

/-! ## The encoding table of the two-byte commands -/

/-- The six rows of format F2 in the table of 30_encoding rule R97. -/
inductive F2Row where
  | setw | dis | setx | aux | skip | abort
  deriving DecidableEq, Repr

/-- "mask" of the row in opcode_table.json, over the 16-bit pattern with the first byte in bits 15:8
(30_encoding rule R91). -/
def F2Row.mask : F2Row → BitVec 16
  | .setw => 0xF800#16
  | .dis => 0xF8FF#16
  | .setx => 0xF8FC#16
  | .aux => 0xFF00#16
  | .skip => 0x0000#16
  | .abort => 0x00FF#16

/-- "match" of the row in opcode_table.json. -/
def F2Row.pattern : F2Row → BitVec 16
  | .setw => 0x0000#16
  | .dis => 0x00FB#16
  | .setx => 0x00FC#16
  | .aux => 0x0800#16
  | .skip => 0x0000#16
  | .abort => 0x00FC#16

/-- "constraint" of the row in opcode_table.json, on the channel byte `c` and the value byte `v`. -/
def F2Row.constraint : F2Row → Byte → Byte → Bool
  | .setw, _, v => decide (v ≤ 250#8)
  | .dis, _, _ => true
  | .setx, _, v => isDataByte v
  | .aux, _, v => isDataByte v
  | .skip, c, v => decide (8#8 < c) && isDataByte c && isDataByte v
  | .abort, c, _ => isDataByte c

/-- The pair of bytes `c`, `v` is a command of this row. -/
def F2Row.hits (r : F2Row) (c v : Byte) : Bool :=
  decide ((c ++ v) &&& r.mask = r.pattern) && r.constraint c v

/-- The F2 row a command is written by; `SYNC` has format F1 and no F2 row. -/
def Instr.f2Row : Instr → Option F2Row
  | .sync => none
  | .setw _ _ => some .setw
  | .dis _ => some .dis
  | .setx _ _ => some .setx
  | .aux _ => some .aux
  | .skip _ _ => some .skip
  | .abort _ => some .abort
  | .auxon => some .aux
  | .auxoff => some .aux

/-! ## Decoding -/

/-- Why a byte sequence does not begin with a whole command. -/
inductive DecodeError where
  /-- There is no byte. -/
  | noByte
  /-- There is a channel byte and no value byte yet: an incomplete F2 command (30_encoding rule R96). -/
  | channelByteAlone (c : Byte)
  deriving DecidableEq, Repr

/-- What the decoder answers: a command and the bytes after it, or a rejection by name. -/
inductive Decoded where
  | command (i : Instr) (rest : List Byte)
  | rejected (e : DecodeError)
  deriving DecidableEq, Repr

/-- The F2 command with channel byte `c` and value byte `v`, for `c` other than the reset byte
(30_encoding rules R93, R94, R95, R97). -/
def decodePair (c v : Byte) : Instr :=
  if v = Config.resetByte then .abort c
  else if c < 8#8 then
    if v ≤ Config.wMax then .setw (c.truncate 3) v
    else if v = Config.disable then .dis (c.truncate 3)
    else .setx (c.truncate 3) v
  else if c = Config.auxIdx then .aux v
  else .skip c v

/-- The first command of a byte sequence that starts at a command boundary (`ps = AwaitingChannel`;
30_encoding rule R96). -/
def decode : List Byte → Decoded
  | [] => .rejected .noByte
  | c :: rest =>
    if c = Config.resetByte then .command .sync rest
    else
      match rest with
      | [] => .rejected (.channelByteAlone c)
      | v :: rest' => .command (decodePair c v) rest'

/-- A whole byte sequence as commands, with the channel byte of an incomplete F2 command at its end, if
there is one (30_encoding rule R96: every byte sequence decodes, and uniquely). -/
def decodeStream : List Byte → List Instr × Option Byte
  | [] => ([], none)
  | [c] => if c = Config.resetByte then ([.sync], none) else ([], some c)
  | c :: v :: rest =>
    if c = Config.resetByte then
      (.sync :: (decodeStream (v :: rest)).1, (decodeStream (v :: rest)).2)
    else
      (decodePair c v :: (decodeStream rest).1, (decodeStream rest).2)

/-! ## Encoding -/

/-- The channel byte of a pulse channel: the field `ccc` under five zero bits (opcode_table.json). -/
def chanByte (ch : BitVec 3) : Byte := ch.zeroExtend 8

/-- The bytes of a command, in the order they are sent (30_encoding rules R91, R92, R97, R102). -/
def encode : Instr → List Byte
  | .sync => [0xFC#8]
  | .setw ch w => [chanByte ch, w]
  | .dis ch => [chanByte ch, 0xFB#8]
  | .setx ch x => [chanByte ch, x]
  | .aux v => [0x08#8, v]
  | .skip c v => [c, v]
  | .abort c => [c, 0xFC#8]
  | .auxon => [0x08#8, 0x01#8]
  | .auxoff => [0x08#8, 0x00#8]

/-! ## The host's words -/

/-- The bytes of a command given as a number with the bits numbered as opcode_table.json numbers them:
a 16-bit command has its first byte in bits 15:8 (30_encoding rule R91; log 10).
A row of at most 8 bits is its one byte; if that byte is not the reset byte it is a channel byte, and the value byte after it
has no bits in the word and is zero. -/
def tableBytes (nbits w : Nat) : List Byte :=
  if 8 < nbits then [BitVec.ofNat 8 (w / 256), BitVec.ofNat 8 w]
  else if BitVec.ofNat 8 w = Config.resetByte then [BitVec.ofNat 8 w]
  else [BitVec.ofNat 8 w, 0#8]

/-- The command the decoder reads from a word of the opcode table. -/
def decodeTableWord (nbits w : Nat) : Option Instr :=
  match decode (tableBytes nbits w) with
  | .command i _ => some i
  | .rejected _ => none

end Sys2Proof
end

