-- ==== Sys2Proof/Machine/State.lean ====
section
/-! DEFINITION. The state of the block (10_state section 1), the stimuli its environment queues, the
reasons a step can stop, and the state after reset (70_reset_and_hazards rules R250, R251). -/

namespace Sys2Proof.Machine

/-! ## Enumerations -/

/-- The Protocol State `ps`, stored in 2 bits (10_state rule R27, decision D14). -/
inductive ProtocolState where
  /-- Code 0: the next byte is a channel byte. -/
  | awaitingChannel
  /-- Code 1: the next byte is a value byte. -/
  | awaitingValue
  /-- Code 2, an illegal encoding. -/
  | illegal2
  /-- Code 3, an illegal encoding. -/
  | illegal3
  deriving DecidableEq, Repr

/-- The stored code of a Protocol State (10_state rule R27). -/
def ProtocolState.code : ProtocolState → BitVec 2
  | .awaitingChannel => 0#2
  | .awaitingValue => 1#2
  | .illegal2 => 2#2
  | .illegal3 => 3#2

/-- The Phase State `ph`, stored in 2 bits (10_state rule R30, decision D15). -/
inductive PhaseState where
  /-- Code 0. -/
  | strobe
  /-- Code 1. -/
  | playback
  /-- Code 2. -/
  | idle
  /-- Code 3, the illegal encoding. -/
  | illegal
  deriving DecidableEq, Repr

/-- The stored code of a Phase State (10_state rule R30). -/
def PhaseState.code : PhaseState → BitVec 2
  | .strobe => 0#2
  | .playback => 1#2
  | .idle => 2#2
  | .illegal => 3#2

/-! ## Events and stimuli -/

/-- The four events of the block (00_scope rule R13). -/
inductive Event where
  /-- `RESET` (70_reset_and_hazards rule R250). -/
  | reset
  /-- `RX(b)`: one byte delivered by the serial receiver (41_command_framer rule R120). -/
  | rx (b : Byte)
  /-- `TICK`: one millisecond elapsed (42_phase_sequencer rule R150). -/
  | tick
  /-- `STEP`: one time-step elapsed since the driver's previous port write (44_output_driver rule R193). -/
  | step
  deriving DecidableEq, Repr

/-- The input pins as sampled in one clock cycle (10_state rule R47). -/
structure CycleInputs where
  rst : Bool
  rxValid : Bool
  rxData : Byte
  tick : Bool
  deriving DecidableEq, Repr

/-- One thing the environment does to the block (log 1). -/
inductive Stimulus where
  /-- One event. -/
  | event (e : Event)
  /-- Bytes of the command stream delivered as `RX` events with no other event between them (log 2). -/
  | frame (bytes : List Byte)
  /-- One clock cycle with these values on the input pins (10_state rule R47, log 4). -/
  | cycle (c : CycleInputs)
  deriving DecidableEq, Repr

/-! ## State -/

/-- The Waveform Table as (index, byte) pairs in canonical form: indices strictly rising, and no entry
equal to what an unlisted index reads as (`unlistedByte`, log 15). -/
abbrev Memory := List Host.Cell

/-- The state of the block: every element of 10_state section 1 and the step timer of
44_output_driver rule R203, under the spec's names, and the environment's queue. -/
structure State where
  /-- Target Table, entries 0 to 8 (10_state rule R20). -/
  T : Vector Byte 9
  /-- Enabled-Channel Mask (10_state rule R23). -/
  M : Byte
  /-- Waveform Table, indices 0 to 250 (10_state rule R25). -/
  W : Memory
  /-- Protocol State (10_state rule R27). -/
  ps : ProtocolState
  /-- Pending channel byte (10_state rule R28). -/
  pch : Byte
  /-- Phase State (10_state rule R30). -/
  ph : PhaseState
  /-- In-cycle tick counter (10_state rule R32). -/
  cnt : Byte
  /-- Playback-Ready Flag (10_state rule R34). -/
  rdy : Bool
  /-- Diagnostic flag (10_state rule R36). -/
  ng : Bool
  /-- Output port register (10_state rule R38). -/
  port : Byte
  /-- Playback index: the next Waveform Table entry to write to `port` (10_state rule R41). -/
  idx : Byte
  /-- Playback in progress (10_state rule R41). -/
  busy : Bool
  /-- Built-this-cycle latch (10_state rule R42). -/
  built : Bool
  /-- Step timer: `none` when stopped, else the clock cycles since its last load (44_output_driver rule R203, log 4). -/
  stepTimer : Option Nat
  /-- The stimuli not yet handled, the next one first (log 1). -/
  pending : List Stimulus
  deriving DecidableEq, Repr

/-- The reset value of every element (70_reset_and_hazards rule R251), before the `settle()` of the
`RESET` event. -/
def State.resetValues : State where
  T := #v[251#8, 251#8, 251#8, 251#8, 251#8, 251#8, 251#8, 251#8, 0#8]
  M := 0x00#8
  W := []
  ps := .awaitingChannel
  pch := 0#8
  ph := .idle
  cnt := 0#8
  rdy := false
  ng := false
  port := 0x00#8
  idx := 0#8
  busy := false
  built := false
  stepTimer := none
  pending := []

/-- The machine right after reset: "the reset values with `built = 1`" (70_reset_and_hazards rule R250). -/
def State.reset : State := { State.resetValues with built := true }

/-! ## Why a step can stop -/

/-- Nothing faults: the block has no trap and no halt (60_exceptions rules R226, R230; log 18). Safe: a
step never stops for a reason the spec does not give. -/
inductive Fault where
  deriving DecidableEq, Repr

/-- Reasons the model gives no next state. -/
inductive Refusal where
  /-- Raised by `exec` for a command with no meaning yet; no command is left so. Safe: no claim can be proved of it. -/
  | notModelled (mnemonic : String)
  /-- Raised by a `STEP` event with `busy = 1` and `idx` above 250: the read is of no location and the state is "outside the
  specification" (20_memory rule R62, 93_implementation_defined U7; log 6). Unreachable from reset. Safe. -/
  | waveIndexBeyondTable (idx : Byte)
  deriving DecidableEq, Repr

end Sys2Proof.Machine
end

