-- ==== Sys2Proof/Machine/Flags.lean ====
section
/-! DEFINITION. The block's comparisons, all unsigned (00_scope rule R12, 43_table_builder section 4,
42_phase_sequencer rule R158), and the conditions the main sequencer tests. There are no condition codes. -/

namespace Sys2Proof.Machine

/-- `s[i] <= 250`: the channel is enabled (43_table_builder rule R173). -/
def channelEnabled (w : Byte) : Bool := decide (w ≤ Config.wMax)

/-- `t < s[i]`: the channel is on at time-step `t` (43_table_builder rule R174). -/
def onAt (t : Nat) (w : Byte) : Bool := decide (t < w.toNat)

/-- `cnt > 16`: the Idle phase is over (42_phase_sequencer rule R153). -/
def idleOver (cnt : Byte) : Bool := decide (Config.idleLimit < cnt)

/-- `ph = Idle and cnt = 0`: the level that triggers a build (43_table_builder rule R170). -/
def State.buildLevel (s : State) : Bool := decide (s.ph = .idle) && decide (s.cnt = 0#8)

/-- A build is due: the level with the latch `built` clear and the driver free (43_table_builder rule R170). -/
def State.buildDue (s : State) : Bool := !s.busy && s.buildLevel && !s.built

/-- `aux = T[8][0]` at every instant: a wire, not a storage element (10_state rule R40). -/
def State.aux (s : State) : Bool := s.T[8].getLsbD 0

/-- What can be seen from outside: `port[7:0]`, `aux`, `dbg_ng` (10_state rule R48). -/
structure Outputs where
  port : Byte
  aux : Bool
  dbgNg : Bool
  deriving DecidableEq, Repr

/-- The outputs of the block (10_state rule R48). -/
def State.outputs (s : State) : Outputs := { port := s.port, aux := s.aux, dbgNg := s.ng }

end Sys2Proof.Machine
end

