-- ==== Sys2Proof/Machine/Operands.lean ====
section
/-! DEFINITION. How a byte of a command, or an index, selects a location (20_memory rules R60 to R62). The
block has one operand form each way: a whole byte used directly as an index (41_command_framer section 6, 44_output_driver section 4). -/

namespace Sys2Proof.Machine

/-- Target Table address decode: the entry a channel byte selects, none for 9 to 255 (20_memory rule R61). -/
def targetIndex (c : Byte) : Option (Fin 9) :=
  if h : c.toNat ≤ 8 then some ⟨c.toNat, by omega⟩ else none

/-- Waveform Table address decode: indices 0 to 250 select a location (20_memory rules R60, R62). -/
def inWaveSpace (a : Nat) : Bool := decide (a < Config.wLen)

end Sys2Proof.Machine
end

