-- ==== Sys2Proof/Machine/Ops.lean ====
section
/-! DEFINITION. The named operations over the two tables, and the raising of an anomaly, which every
handler shares. -/

namespace Sys2Proof.Machine

/-! ## The Waveform Table -/

/-- What an index with no entry in the list reads as: the reset content 0x00 (10_state rule R26; log 15). -/
def unlistedByte : Byte := 0x00#8

/-- `MemRead(a, 1)` (00_scope section 6). -/
def Memory.read : Memory → Nat → Byte
  | [], _ => unlistedByte
  | (k, v) :: m, a => if k = a then v else Memory.read m a

/-- `MemWrite(a, 1, b)` (00_scope section 6): one byte to one entry, keeping the canonical form. -/
def Memory.write : Memory → Nat → Byte → Memory
  | [], a, b => if b = unlistedByte then [] else [(a, b)]
  | (k, v) :: m, a, b =>
    if a < k then
      if b = unlistedByte then (k, v) :: m else (a, b) :: (k, v) :: m
    else if a = k then
      if b = unlistedByte then m else (a, b) :: m
    else (k, v) :: Memory.write m a b

/-- Canonical from index `lo` on: indices at least `lo` and strictly rising, no entry equal to `unlistedByte`. -/
def Memory.wfFrom : Nat → Memory → Bool
  | _, [] => true
  | lo, (k, v) :: m => decide (lo ≤ k) && (v != unlistedByte) && Memory.wfFrom (k + 1) m

/-- The canonical form of the table. -/
def Memory.wf (m : Memory) : Bool := Memory.wfFrom 0 m

/-- Every listed index is a location of the Waveform Table (20_memory rule R60). -/
def Memory.inSpace (m : Memory) : Bool := m.all fun cell => inWaveSpace cell.1

/-! ## The Target Table -/

/-- `T[c] <- b`, performed iff `c <= 8` (20_memory rule R61, 41_command_framer rule R123). -/
def State.writeTarget (s : State) (c b : Byte) : State :=
  match targetIndex c with
  | some i => { s with T := s.T.set i.val b }
  | none => s

/-! ## Anomalies -/

/-- The two causes; names of the spec's pseudocode only, there are no cause codes (60_exceptions rule R223). -/
inductive DiagCause where
  | illegalProtocolState
  | illegalPhaseState
  deriving DecidableEq, Repr

/-- `raise Diag(cause)`: means exactly `ng <- 1` (60_exceptions rule R223). It is all there is of taking an
exception: no state is saved, nothing vectors (rule R230), and there is no return to model (rule R231). The
handler that raises it goes on to force its default state. -/
def State.raiseDiag (s : State) (_cause : DiagCause) : State := { s with ng := true }

/-! ## Outcomes -/

/-- Go on from a next state; a stop stays a stop. -/
def andThen (o : Host.Outcome State Fault Refusal) (f : State → Host.Outcome State Fault Refusal) :
    Host.Outcome State Fault Refusal :=
  match o with
  | .next s => f s
  | .fault r => .fault r
  | .refused r => .refused r

end Sys2Proof.Machine
end

