-- ==== Sys2Proof/Machine/Builder.lean ====
section
/-! DEFINITION. The table builder: `BUILD()` (43_table_builder rules R172 to R176). -/

namespace Sys2Proof.Machine

/-- The builder's snapshot `s[i] = T[i]`, `i` in 0 to 7, all at one instant; `T[8]` is not read
(43_table_builder rule R172). -/
def snapshot (T : Vector Byte 9) : Vector Byte 8 := Vector.ofFn fun i : Fin 8 => T[i.val]

/-- The mask of a snapshot (43_table_builder rule R173). -/
def maskOf (s : Vector Byte 8) : Byte := BitVec.ofFnLE fun i : Fin 8 => channelEnabled s[i.val]

/-- `on(t)`: which channels are on at time-step `t`, before the mask (43_table_builder rule R174). -/
def onMask (s : Vector Byte 8) (t : Nat) : Byte := BitVec.ofFnLE fun i : Fin 8 => onAt t s[i.val]

/-- The entry stored for time-step `t`: `on(t) & M` (43_table_builder rule R174). -/
def waveEntry (s : Vector Byte 8) (t : Nat) : Byte := onMask s t &&& maskOf s

/-- The whole Waveform Table of a snapshot, all 251 entries at once (43_table_builder rules R175, R176). -/
def waveOf (s : Vector Byte 8) : Memory :=
  (List.range Config.wLen).filterMap fun t =>
    if waveEntry s t = unlistedByte then none else some (t, waveEntry s t)

/-- The write loop of the spec's pseudocode, `t` from `n - 1` down to 0 (43_table_builder rules R174, R175). A
reference for `waveOf`, which the machine uses. -/
def waveLoop (s : Vector Byte 8) : Nat → Memory → Memory
  | 0, m => m
  | n + 1, m => waveLoop s n (m.write n (waveEntry s n))

/-- `BUILD()`: `M` and all 251 entries of `W`, from one snapshot, and nothing else
(43_table_builder rules R172, R176). -/
def build (s : State) : State :=
  { s with M := maskOf (snapshot s.T), W := waveOf (snapshot s.T) }

end Sys2Proof.Machine
end

