-- ==== Sys2Proof/Machine/Driver.lean ====
section
/-! DEFINITION. The main sequencer step `settle()` and the output driver's `STEP` handler
(44_output_driver rules R190 to R204). -/

namespace Sys2Proof.Machine

/-- Clearing the latch `built` when the build level is false (44_output_driver rule R202). -/
def clearLatch (s : State) : State := if s.buildLevel then s else { s with built := false }

/-- The start of a playback: `W[0]` to the port, `idx <- 1`, `busy <- 1`, and the step timer is loaded
(44_output_driver rules R192, R203). -/
def startPlayback (s : State) : State :=
  { s with port := s.W.read 0, idx := 1#8, busy := true, stepTimer := some 0 }

/-- The build of this cycle, if it is due: `BUILD()`, `built <- 1` (43_table_builder rule R170). -/
def buildIfDue (s : State) : State :=
  if s.cnt = 0#8 ∧ s.built = false then { build s with built := true } else s

/-- `settle()`: the last action of every event (44_output_driver rule R190). -/
def settle (s : State) : State :=
  if s.busy then s
  else
    let s := clearLatch s
    match s.ph with
    | .strobe => { s with port := s.M }
    | .playback => if s.rdy then startPlayback s else s
    | .idle => { buildIfDue s with port := 0x00#8 }
    | .illegal => s

/-- The `STEP` handler before its `settle()`: the next Waveform Table entry to the port, then either the
completion or the next index with the timer reloaded (44_output_driver rules R193, R194, R203). -/
def stepHandler (s : State) : Host.Outcome State Fault Refusal :=
  if s.busy then
    if inWaveSpace s.idx.toNat then
      let s := { s with port := s.W.read s.idx.toNat }
      if s.idx = 250#8 then .next { s with busy := false, rdy := false, stepTimer := none }
      else .next { s with idx := s.idx + 1#8, stepTimer := some 0 }
    else .refused (.waveIndexBeyondTable s.idx)
  else .next s

end Sys2Proof.Machine
end

