-- ==== Sys2Proof/Machine/Framer.lean ====
section
/-! DEFINITION. The command framer: the `RX(b)` handler (41_command_framer rules R120 to R123, R130). -/

namespace Sys2Proof.Machine

/-- The `RX(b)` handler before its `settle()`; the reset-byte test comes first (41_command_framer rule R120). -/
def rxHandler (b : Byte) (s : State) : State :=
  if b = Config.resetByte then { s with ps := .awaitingChannel }
  else
    match s.ps with
    | .awaitingChannel => { s with pch := b, ps := .awaitingValue }
    | .awaitingValue => { s.writeTarget s.pch b with ps := .awaitingChannel }
    | .illegal2 => { s.raiseDiag .illegalProtocolState with ps := .awaitingChannel }
    | .illegal3 => { s.raiseDiag .illegalProtocolState with ps := .awaitingChannel }

/-- The event `RX(b)`: the handler, then `settle()` (41_command_framer rule R120). -/
def receive (b : Byte) (s : State) : State := settle (rxHandler b s)

/-- Bytes delivered one after another, each event handled to completion before the next
(00_scope rule R13, 41_command_framer rule R132). -/
def receiveAll : List Byte → State → State
  | [], s => s
  | b :: bs, s => receiveAll bs (receive b s)

end Sys2Proof.Machine
end

