-- ==== Sys2Proof/Machine/Commands.lean ====
section
/-! DEFINITION. The meaning of every command: its bytes, received one after another (41_command_framer
rules R121, R124 to R129, R134). From `ps = AwaitingChannel` this is what the rules say of the command; in
another `ps` the framer takes the bytes in the roles their position gives them (30_encoding rule R103; log 13). -/

namespace Sys2Proof.Machine

/-- `SYNC`: `RX(252)` (41_command_framer rules R121, R134). -/
def execSync (s : State) : Host.Outcome State Fault Refusal :=
  .next (receiveAll [Config.resetByte] s)

/-- `SETW ch, w`: `RX(ch)`, `RX(w)` (41_command_framer rule R124). -/
def execSetw (ch : BitVec 3) (w : Byte) (s : State) : Host.Outcome State Fault Refusal :=
  .next (receiveAll [chanByte ch, w] s)

/-- `DIS ch`: `RX(ch)`, `RX(251)` (41_command_framer rule R125). -/
def execDis (ch : BitVec 3) (s : State) : Host.Outcome State Fault Refusal :=
  .next (receiveAll [chanByte ch, Config.disable] s)

/-- `SETX ch, x`: `RX(ch)`, `RX(x)` (41_command_framer rule R126, decision D6). -/
def execSetx (ch : BitVec 3) (x : Byte) (s : State) : Host.Outcome State Fault Refusal :=
  .next (receiveAll [chanByte ch, x] s)

/-- `AUX v`: `RX(8)`, `RX(v)` (41_command_framer rule R127). -/
def execAux (v : Byte) (s : State) : Host.Outcome State Fault Refusal :=
  .next (receiveAll [Config.auxIdx, v] s)

/-- `SKIP c, v`: `RX(c)`, `RX(v)` (41_command_framer rule R128). -/
def execSkip (c v : Byte) (s : State) : Host.Outcome State Fault Refusal :=
  .next (receiveAll [c, v] s)

/-- `ABORT c`: `RX(c)`, `RX(252)` (41_command_framer rule R129). -/
def execAbort (c : Byte) (s : State) : Host.Outcome State Fault Refusal :=
  .next (receiveAll [c, Config.resetByte] s)

/-- `AUXON`: `AUX 1` (30_encoding rule R102). -/
def execAuxon (s : State) : Host.Outcome State Fault Refusal :=
  .next (receiveAll [Config.auxIdx, 1#8] s)

/-- `AUXOFF`: `AUX 0` (30_encoding rule R102). -/
def execAuxoff (s : State) : Host.Outcome State Fault Refusal :=
  .next (receiveAll [Config.auxIdx, 0#8] s)

end Sys2Proof.Machine
end

