-- ==== Sys2Proof/Machine/Dispatch.lean ====
section
/-! DEFINITION. The one match from a command to its meaning. -/

namespace Sys2Proof.Machine

def exec (i : Instr) (s : State) : Host.Outcome State Fault Refusal :=
  match i with
  | .sync => Sys2Proof.Machine.execSync s
  | .setw ch w => Sys2Proof.Machine.execSetw ch w s
  | .dis ch => Sys2Proof.Machine.execDis ch s
  | .setx ch x => Sys2Proof.Machine.execSetx ch x s
  | .aux v => Sys2Proof.Machine.execAux v s
  | .skip c v => Sys2Proof.Machine.execSkip c v s
  | .abort c => Sys2Proof.Machine.execAbort c s
  | .auxon => Sys2Proof.Machine.execAuxon s
  | .auxoff => Sys2Proof.Machine.execAuxoff s

end Sys2Proof.Machine
end

