-- ==== Sys2Proof/Machine/Sequencer.lean ====
section
/-! DEFINITION. The phase sequencer: the `TICK` handler (42_phase_sequencer rules R150 to R154). -/

namespace Sys2Proof.Machine

/-- The `TICK` handler before its `settle()` (42_phase_sequencer rule R150). In Idle the increment comes
before the test (rule R153), and wraps at 255 (rule R158). -/
def tickHandler (s : State) : State :=
  match s.ph with
  | .strobe => { s with ph := .playback, rdy := true }
  | .playback => { s with ph := .idle, cnt := 0#8 }
  | .idle =>
    let s := { s with cnt := s.cnt + 1#8 }
    if idleOver s.cnt then { s with ph := .strobe } else s
  | .illegal => { s.raiseDiag .illegalPhaseState with ph := .idle }

/-- The event `TICK`: the handler, then `settle()` (42_phase_sequencer rule R150). -/
def tick (s : State) : State := settle (tickHandler s)

end Sys2Proof.Machine
end

