-- ==== Sys2Proof/Machine/Events.lean ====
section
/-! DEFINITION. The four events as one function, runs of events, and the clock cycle that raises them
(00_scope rule R13, 60_exceptions rule R229, 44_output_driver rule R203). -/

namespace Sys2Proof.Machine

/-- The event `RESET`: every element to its reset value, then `settle()` (70_reset_and_hazards rule R250).
The environment's later stimuli are not the block's and stay (log 16). -/
def resetEvent (s : State) : State := settle { State.resetValues with pending := s.pending }

/-- Handle one event to completion (00_scope rule R13). -/
def handle (e : Event) (s : State) : Host.Outcome State Fault Refusal :=
  match e with
  | .reset => .next (resetEvent s)
  | .rx b => .next (receive b s)
  | .tick => .next (tick s)
  | .step => andThen (stepHandler s) fun t => .next (settle t)

/-- The state after a sequence of events is the fold of the event functions over it (20_memory rule R72). -/
def runEvents : List Event → State → Host.Outcome State Fault Refusal
  | [], s => .next s
  | e :: es, s => andThen (handle e s) (runEvents es)

/-! ## Clock cycles -/

/-- The step timer expires in this clock cycle: it is running (`busy = 1`) and this is cycle number
`STEP_CYCLES` after its last load (44_output_driver rule R203; log 4, log 17). -/
def State.timerExpires (s : State) : Bool :=
  match s.stepTimer with
  | none => false
  | some n => s.busy && decide (Config.stepCycles ≤ n + 1)

/-- One clock cycle passes for the step timer, if it runs (70_reset_and_hazards rule R271). -/
def State.advanceTimer (s : State) : State := { s with stepTimer := s.stepTimer.map (· + 1) }

/-- The events of the strobes asserted in one clock cycle, in the order they are handled: `RX`, `TICK`,
`STEP`; `RESET` overrides all three (60_exceptions rule R229). -/
def arbitrate (c : CycleInputs) (stepStrobe : Bool) : List Event :=
  if c.rst then [.reset]
  else
    (if c.rxValid then [.rx c.rxData] else []) ++ (if c.tick then [.tick] else []) ++
      (if stepStrobe then [.step] else [])

/-- One clock cycle with these inputs (10_state rule R47). -/
def clockCycle (c : CycleInputs) (s : State) : Host.Outcome State Fault Refusal :=
  runEvents (arbitrate c s.timerExpires) s.advanceTimer

end Sys2Proof.Machine
end

