-- ==== Sys2Proof/Machine/Deliver.lean ====
section
/-! DEFINITION. Delivering one stimulus to the block; the fetch of a command from a frame of bytes. -/

namespace Sys2Proof.Machine

/-- Commands executed one after another. -/
def execAll : List Instr → State → Host.Outcome State Fault Refusal
  | [], s => .next s
  | i :: is, s => andThen (exec i s) (execAll is)

/-- Put the bytes of a frame that are still to come back at the head of the queue. -/
def State.requeue (s : State) (rest : List Byte) : State :=
  match rest with
  | [] => s
  | b :: bs => { s with pending := .frame (b :: bs) :: s.pending }

/-- Take the first command of a frame and execute it; a channel byte with no value byte behind it is
received alone (30_encoding rule R96; log 2). -/
def deliverFrame (bytes : List Byte) (s : State) : Host.Outcome State Fault Refusal :=
  match decode bytes with
  | .command i rest => exec i (s.requeue rest)
  | .rejected .noByte => .next s
  | .rejected (.channelByteAlone c) => handle (.rx c) s

/-- Deliver one stimulus. -/
def deliver (x : Stimulus) (s : State) : Host.Outcome State Fault Refusal :=
  match x with
  | .event e => handle e s
  | .frame bytes => deliverFrame bytes s
  | .cycle c => clockCycle c s

end Sys2Proof.Machine
end

