-- ==== Sys2Proof/Machine/Step.lean ====
section
/-! DEFINITION. One step of the machine: the next stimulus the environment has queued (log 1). -/

namespace Sys2Proof.Machine

/-- One step. The state changes only in response to an event (00_scope rule R13): with nothing pending it
stays as it is. -/
def step (s : State) : Host.Outcome State Fault Refusal :=
  match s.pending with
  | [] => .next s
  | x :: rest => deliver x { s with pending := rest }

/-- The state in which the very next step runs the command with these bits (`tableBytes`): its bytes stand
first in the queue, and the framer is at a command boundary (30_encoding rule R96; log 1). -/
def State.withFetchWord (s : State) (nbits w : Nat) : State :=
  { s with ps := .awaitingChannel, pending := .frame (tableBytes nbits w) :: s.pending }

end Sys2Proof.Machine
end

