-- ==== Sys2Proof/Safety.lean ====
section
/-! DEFINITION. What claims may assume and what they promise: settled states, the invariant of the reachable
states, and well-timed runs (70_reset_and_hazards rules R263, R264, R271). -/

namespace Sys2Proof.Machine

/-! ## States -/

/-- The main sequencer has nothing left to do: the state of the block between two events (44_output_driver rule R199). -/
def Settled (s : State) : Prop := settle s = s

/-- `M` and `W` come from one snapshot (20_memory rule R75). -/
def TablesFrom (s : State) (snap : Vector Byte 8) : Prop := s.M = maskOf snap ∧ s.W = waveOf snap

/-- What holds between events in every state the block can reach from reset. -/
structure BlockInv (s : State) : Prop where
  /-- No rule writes an illegal Protocol State (10_state rule R27). -/
  psLegal : s.ps = .awaitingChannel ∨ s.ps = .awaitingValue
  /-- No rule writes the illegal Phase State (10_state rule R30). -/
  phLegal : s.ph ≠ .illegal
  /-- In Idle the counter has not exceeded the limit (42_phase_sequencer rule R153). -/
  cntInIdle : s.ph = .idle → s.cnt ≤ 16#8
  /-- Outside Idle the counter holds 17 (42_phase_sequencer rule R157). -/
  cntOutsideIdle : s.ph ≠ .idle → s.cnt = 17#8
  /-- The index never exceeds 250 (44_output_driver rule R193). -/
  idxInTable : s.idx ≤ 250#8
  /-- A playback in progress has written `W[0]` (44_output_driver rule R192). -/
  idxStarted : s.busy = true → 1#8 ≤ s.idx
  /-- The step timer runs exactly while a playback is in progress (44_output_driver rule R203). -/
  timerRuns : s.stepTimer.isSome = s.busy
  /-- The Playback-Ready Flag is up exactly while a playback is in progress (10_state rule R34, 44_output_driver rules R192, R194). -/
  rdyIsBusy : s.rdy = s.busy
  /-- A playback in progress leaves the latch clear (44_output_driver rules R197, R202). -/
  busyLatch : s.busy = true → s.built = false
  /-- Both tables come from one snapshot (20_memory rule R75). -/
  tables : ∃ snap, TablesFrom s snap
  /-- During a playback the port shows the entry last written (44_output_driver rule R201). -/
  portPlaying : s.busy = true → s.port = s.W.read (s.idx.toNat - 1)
  /-- After the playback of a cycle the port is low (44_output_driver rule R195). -/
  portPlayed : s.busy = false → s.ph = .playback → s.port = 0#8
  /-- The reset byte never reaches `pch` (10_state rule R28). -/
  pchData : s.pch ≠ Config.resetByte
  /-- The reset byte never reaches the Target Table (30_encoding rule R101). -/
  targetData : ∀ i : Fin 9, s.T[i.val] ≠ Config.resetByte
  /-- No anomaly has happened (10_state rule R36). -/
  noAnomaly : s.ng = false
  /-- Every event ends in `settle()` (44_output_driver rule R190). -/
  settled : Settled s

/-! ## What the rules say of commands and of the cycle -/

/-- The effect of a whole command that starts and ends with `ps = AwaitingChannel`, as its rule states it
(41_command_framer rules R121, R124 to R129, 30_encoding rule R102). -/
def commandEffect : Instr → State → State
  | .sync, s => s
  | .setw ch w, s => { s with T := s.T.set ch.toNat w (by omega), pch := chanByte ch }
  | .dis ch, s => { s with T := s.T.set ch.toNat 251#8 (by omega), pch := chanByte ch }
  | .setx ch x, s => { s with T := s.T.set ch.toNat x (by omega), pch := chanByte ch }
  | .aux v, s => { s with T := s.T.set 8 v, pch := 8#8 }
  | .skip c _, s => { s with pch := c }
  | .abort c, s => { s with pch := c }
  | .auxon, s => { s with T := s.T.set 8 1#8, pch := 8#8 }
  | .auxoff, s => { s with T := s.T.set 8 0#8, pch := 8#8 }

/-- What a byte sequence that starts at a command boundary stands for: the effects of its commands one after
another, and the channel byte of an incomplete last pair waiting in `pch` (30_encoding rule R96). -/
def streamEffect (bs : List Byte) (s : State) : State :=
  match decodeStream bs with
  | (is, none) => is.foldl (fun s i => commandEffect i s) s
  | (is, some c) => { is.foldl (fun s i => commandEffect i s) s with pch := c, ps := .awaitingValue }

/-- The value a command writes for a pulse channel (41_command_framer rules R124 to R126). -/
def valueFor (i : Instr) (ch : BitVec 3) : Option Byte :=
  match i with
  | .sync => none
  | .setw c w => if c = ch then some w else none
  | .dis c => if c = ch then some 251#8 else none
  | .setx c x => if c = ch then some x else none
  | .aux _ => none
  | .skip _ _ => none
  | .abort _ => none
  | .auxon => none
  | .auxoff => none

/-- The last value a sequence of commands writes for a pulse channel (43_table_builder rule R183). -/
def lastValue : List Instr → BitVec 3 → Option Byte
  | [], _ => none
  | i :: is, ch =>
    match lastValue is ch with
    | some v => some v
    | none => valueFor i ch

/-- Phase and tick counter `n` ticks after a Strobe with counter `c`, for `n` up to one cycle
(42_phase_sequencer rule R155). -/
def phaseAfterStrobe (c : Byte) (n : Nat) : PhaseState × Byte :=
  if n = 0 then (.strobe, c)
  else if n = 1 then (.playback, c)
  else if n ≤ 18 then (.idle, BitVec.ofNat 8 (n - 2))
  else (.strobe, 17#8)

/-- Phase and tick counter `n` ticks after reset, for `n` up to 19 (42_phase_sequencer rule R159). -/
def phaseAfterReset (n : Nat) : PhaseState × Byte :=
  if n ≤ 16 then (.idle, BitVec.ofNat 8 n)
  else if n = 17 then (.strobe, 17#8)
  else if n = 18 then (.playback, 17#8)
  else (.idle, 0#8)

/-- The event is one of the two anomalies in this state (60_exceptions rules R221, R222). -/
def isAnomaly (e : Event) (s : State) : Bool :=
  match e with
  | .reset => false
  | .rx b => isDataByte b && decide (s.ps ≠ .awaitingChannel) && decide (s.ps ≠ .awaitingValue)
  | .tick => decide (s.ph = .illegal)
  | .step => false

/-- `n` clock cycles with no strobe on the input pins (10_state rule R47). -/
def idleCycles : Nat → State → Host.Outcome State Fault Refusal
  | 0, s => .next s
  | n + 1, s =>
    andThen (clockCycle { rst := false, rxValid := false, rxData := 0#8, tick := false } s) (idleCycles n)

/-! ## Well-timed runs -/

/-- This event, handled in this state, does not break the timing budget: it is not the second `TICK` after
the one that started a playback still in progress (70_reset_and_hazards rule R264). -/
def inTime (e : Event) (s : State) : Bool := !(decide (e = .tick) && s.busy && decide (s.ph = .idle))

/-- Every playback of the run completes before the second `TICK` after the one that started it
(70_reset_and_hazards rule R264). -/
def wellTimed : List Event → State → Bool
  | [], _ => true
  | e :: es, s =>
    inTime e s &&
      match handle e s with
      | .next t => wellTimed es t
      | .fault _ => true
      | .refused _ => true

/-! ## Real time: scales the waveform, read by no event rule (00_scope rules R10, R11) -/

/-- `TICK_PERIOD` in seconds: one millisecond (00_scope rule R10). -/
def tickPeriod : Rat := 1 / 1000

/-- `STEP_PERIOD = STEP_CYCLES / CLK_HZ` in seconds (00_scope rule R11). -/
def stepPeriod : Rat := Config.stepCycles / Config.clkHz

/-- `250 x STEP_PERIOD < 2 x TICK_PERIOD`: the calibration that makes runs well-timed (70_reset_and_hazards rule R264). -/
def Calibrated : Prop := 250 * stepPeriod < 2 * tickPeriod

/-- `BUILD_CYCLES` clock periods are shorter than one `TICK_PERIOD`: the event-level model is exact
(70_reset_and_hazards rule R271). -/
def BuildFits : Prop := (Config.buildCycles : Rat) / Config.clkHz < tickPeriod

/-- The time channel width `w` holds the port high in a well-timed cycle: one `TICK_PERIOD` plus `w` times
`STEP_PERIOD` (44_output_driver rule R200). -/
def pulseTime (w : Nat) : Rat := tickPeriod + w * stepPeriod

end Sys2Proof.Machine
end

