-- ==== Sys2Proof/Certificates/Slice0/Obligations.lean ====
section
/-! DEFINITION. The statements for the provers. Each docstring names the rule of the spec it formalises. -/

open Sys2Proof Sys2Proof.Machine

/-! ## Reset and the invariant -/

/-- 70_reset_and_hazards rule R250: every element takes its reset value, and the `settle()` of the event runs the
first build and sets `built`. The values but the Target Table's are the spec's decisions D8 to D13, D18 and D21
(log 8); the environment's queue is the model's own (log 1, log 16). -/
def Obligations.ResetEventGivesResetState : Prop :=
  settle State.resetValues = State.reset ∧
    ∀ s : State, handle .reset s = .next { State.reset with pending := s.pending }

/-- 70_reset_and_hazards rule R251: the reset value of every element of the table, `built` first 0 and then 1. All but the Target Table's are the spec's decisions
D8 to D13, D18 and D21 (log 8). -/
def Obligations.ResetValueOfEveryElement : Prop :=
  (∀ r ∈ [State.resetValues, State.reset],
    (∀ i : Fin 8, r.T[i.val] = 251#8) ∧ r.T[8] = 0#8 ∧ r.aux = false ∧ r.M = 0#8 ∧ (∀ t, r.W.read t = 0#8) ∧
    r.ps = .awaitingChannel ∧ r.pch = 0#8 ∧ r.ph = .idle ∧ r.cnt = 0#8 ∧ r.rdy = false ∧ r.ng = false ∧
    r.port = 0#8 ∧ r.idx = 0#8 ∧ r.busy = false ∧ r.stepTimer = none) ∧
  State.resetValues.built = false ∧ State.reset.built = true

/-- The state after reset meets the invariant of the reachable states. -/
def Obligations.ResetMeetsInvariant : Prop := BlockInv State.reset

/-- Every step, whatever the environment does, keeps the invariant: legal `ps` and `ph`, the counter and index
bounds, `rdy = busy`, the timer running exactly while busy, both tables from one snapshot, the port
as the driver left it, no reset byte in `pch` or `T`, no anomaly, and a settled sequencer. -/
def Obligations.EveryStepKeepsInvariant : Prop :=
  ∀ s t : State, BlockInv s → step s = .next t → BlockInv t

/-- 60_exceptions rule R226, 00_scope rule R15, for the states a run can be in: no step stops. -/
def Obligations.NoStepStopsInReachableStates : Prop :=
  ∀ s : State, BlockInv s → ∃ t : State, step s = .next t ∧ BlockInv t

/-- Every event has a next state in every state but one kind, and that one is refused (00_scope rule R15,
20_memory rule R62; which of the two holds there is log 6). -/
def Obligations.EventStopsExactlyBeyondTheTable : Prop :=
  ∀ (e : Event) (s : State),
    ((∃ t, handle e s = .next t) ↔ ¬ (e = .step ∧ s.busy = true ∧ 250#8 < s.idx)) ∧
    (e = .step → s.busy = true → 250#8 < s.idx → handle e s = .refused (.waveIndexBeyondTable s.idx))

/-! ## Encoding -/

/-- Words written out from the encodings of opcode_table.json decode to the commands they stand for. -/
def Obligations.SpecWordsDecode : Prop :=
  decodeTableWord 8 0b11111100 = some .sync ∧
  decodeTableWord 16 0b0000010111001000 = some (.setw 5#3 200#8) ∧
  decodeTableWord 16 0b0000001111111011 = some (.dis 3#3) ∧
  decodeTableWord 16 0b0000001011111111 = some (.setx 2#3 255#8) ∧
  decodeTableWord 16 0b0000100000000011 = some (.aux 3#8) ∧
  decodeTableWord 16 0b1100100001001101 = some (.skip 200#8 77#8) ∧
  decodeTableWord 16 0b0000010111111100 = some (.abort 5#8) ∧
  decodeTableWord 16 0b0000100000000001 = some (.aux 1#8) ∧
  decodeTableWord 16 0b0000100000000000 = some (.aux 0#8)

/-- Decoding an encoded well-formed command gives it back, whatever bytes follow; a pseudo-command comes back
as what it stands for (30_encoding rules R97, R102). -/
def Obligations.DecodeOfEncodeIsTheCommand : Prop :=
  ∀ (i : Instr) (rest : List Byte), i.wf = true → decode (encode i ++ rest) = .command i.expand rest

/-- 30_encoding rule R97: every pair of bytes `(c, v)` with `c` not 252 matches exactly one of the six F2 rows,
and it is the row of the command the decoder reads, whose operands are admitted ones. -/
def Obligations.EveryPairMatchesExactlyItsRow : Prop :=
  ∀ c v : Byte, c ≠ 252#8 →
    (∀ r : F2Row, r.hits c v = true ↔ (decodePair c v).f2Row = some r) ∧
    (∃ r : F2Row, r.hits c v = true) ∧ (decodePair c v).wf = true

/-- 30_encoding rule R96: no byte of a sequence is lost in decoding it into commands and possibly one incomplete
channel byte at its end, and every command read has admitted operands. -/
def Obligations.StreamDecodingLosesNoByte : Prop :=
  ∀ bs : List Byte,
    (decodeStream bs).1.flatMap encode ++ (decodeStream bs).2.toList = bs ∧
    (∀ i ∈ (decodeStream bs).1, i.wf = true) ∧ (∀ c ∈ (decodeStream bs).2, c ≠ 252#8)

/-- 30_encoding rule R96: commands sent one after another are read back as those commands, and as no others. -/
def Obligations.StreamDecodingIsUnique : Prop :=
  ∀ is : List Instr, (∀ i ∈ is, i.wf = true) →
    decodeStream (is.flatMap encode) = (is.map Instr.expand, none)

/-- 30_encoding rule R96 against 41_command_framer rule R120: the framer, byte by byte, does to a settled state what the
commands decoded from the byte sequence do one after another; the channel byte of an incomplete
command waits in `pch`. From `ps = AwaitingValue` the pending byte is the first byte of the sequence. -/
def Obligations.FramerRunsTheDecodedCommands : Prop :=
  ∀ (bs : List Byte) (s : State), Settled s →
    (s.ps = .awaitingChannel → receiveAll bs s = streamEffect bs s) ∧
    (s.ps = .awaitingValue → s.pch ≠ 252#8 →
      receiveAll bs s = streamEffect (s.pch :: bs) { s with ps := .awaitingChannel })

/-! ## The step -/

/-- A step on a queued command frame is `exec` of the first command of the frame, with the frame taken off the
queue and its remaining bytes, if any, put back (the model's queue: log 1, log 2). -/
def Obligations.StepRunsTheDecodedCommand : Prop :=
  ∀ (s : State) (bytes left : List Byte) (queue : List Stimulus) (i : Instr),
    s.pending = .frame bytes :: queue → decode bytes = .command i left →
    step s = exec i { s with pending := if left = [] then queue else .frame left :: queue }

/-- The other steps: an event is handled, a clock cycle is run, a channel byte with nothing behind it is one
`RX`, an empty frame is dropped, and with nothing queued nothing happens (log 1). -/
def Obligations.StepTakesTheNextStimulus : Prop :=
  ∀ (s : State) (queue : List Stimulus),
    (∀ e, s.pending = .event e :: queue → step s = handle e { s with pending := queue }) ∧
    (∀ c, s.pending = .cycle c :: queue → step s = clockCycle c { s with pending := queue }) ∧
    (∀ c, c ≠ 252#8 → s.pending = .frame [c] :: queue → step s = handle (.rx c) { s with pending := queue }) ∧
    (s.pending = .frame [] :: queue → step s = .next { s with pending := queue }) ∧
    (s.pending = [] → step s = .next s)

/-- The word placed for the next fetch is the command the next step runs (log 1, log 10). -/
def Obligations.PlacedWordIsRunNext : Prop :=
  ∀ (s : State) (nbits w : Nat) (i : Instr) (left : List Byte),
    decode (tableBytes nbits w) = .command i left →
    decodeTableWord nbits w = some i ∧
    step (s.withFetchWord nbits w) =
      exec i { s with
        ps := .awaitingChannel, pending := if left = [] then s.pending else .frame left :: s.pending }

/-! ## The command framer -/

/-- 41_command_framer rules R121 and R134: the reset byte forces `AwaitingChannel` whatever `ps` was, an illegal one
included, and changes nothing else; any number of `SYNC` bytes equal one. That `pch` is kept and that an illegal
`ps` raises nothing are the spec's decisions D33 and D29 (log 8). -/
def Obligations.SyncResetsOnlyTheFramer : Prop :=
  ∀ s : State,
    rxHandler 252#8 s = { s with ps := .awaitingChannel } ∧
    (Settled s → handle (.rx 252#8) s = .next { s with ps := .awaitingChannel } ∧
      exec .sync s = .next { s with ps := .awaitingChannel } ∧
      ∀ n, receiveAll (List.replicate (n + 1) 252#8) s = { s with ps := .awaitingChannel })

/-- 41_command_framer rule R122: a channel byte is stored, whatever its value, and `T` is not touched. -/
def Obligations.ChannelByteIsStored : Prop :=
  ∀ (s : State) (b : Byte), Settled s → s.ps = .awaitingChannel → b ≠ 252#8 →
    handle (.rx b) s = .next { s with pch := b, ps := .awaitingValue }

/-- 41_command_framer rule R123 and 20_memory rule R61: a value byte is written iff `pch <= 8`; the state returns to
`AwaitingChannel` in either case; a write with `pch = 8` changes `aux` in this same event. -/
def Obligations.ValueByteWritesItsEntry : Prop :=
  ∀ (s : State) (b : Byte), Settled s → s.ps = .awaitingValue → b ≠ 252#8 →
    (∀ h : s.pch.toNat ≤ 8,
      handle (.rx b) s = .next { s with T := s.T.set s.pch.toNat b (by omega), ps := .awaitingChannel }) ∧
    (8 < s.pch.toNat → handle (.rx b) s = .next { s with ps := .awaitingChannel }) ∧
    (s.pch = 8#8 → ∀ t, handle (.rx b) s = .next t → t.aux = b.getLsbD 0)

/-- 41_command_framer rule R130 and 60_exceptions rule R221: in an illegal `ps` a byte other than the reset byte sets
`ng`, forces `AwaitingChannel` and is discarded. -/
def Obligations.IllegalProtocolStateIsRepaired : Prop :=
  ∀ (s : State) (b : Byte), Settled s → (s.ps = .illegal2 ∨ s.ps = .illegal3) → b ≠ 252#8 →
    handle (.rx b) s = .next { s with ng := true, ps := .awaitingChannel }

/-- 41_command_framer rule R133: `RX` writes only `ps`, `pch`, one entry of `T` and `ng`, whatever the phase, and what
it writes depends on `ps`, `pch`, `T`, `ng` and the byte alone (the rule is marked derived). -/
def Obligations.ReceiveTouchesOnlyTheFramer : Prop :=
  (∀ (s t : State) (b : Byte), Settled s → handle (.rx b) s = .next t →
    t.M = s.M ∧ (∀ a, t.W.read a = s.W.read a) ∧ t.W = s.W ∧ t.ph = s.ph ∧ t.cnt = s.cnt ∧ t.rdy = s.rdy ∧
    t.port = s.port ∧ t.idx = s.idx ∧ t.busy = s.busy ∧ t.built = s.built ∧ t.stepTimer = s.stepTimer ∧
    t.pending = s.pending ∧
    (∀ j : Fin 9, ¬ (s.ps = .awaitingValue ∧ b ≠ 252#8 ∧ s.pch.toNat = j.val) → t.T[j.val] = s.T[j.val])) ∧
  (∀ (s u : State) (b : Byte), u.T = s.T → u.ps = s.ps → u.pch = s.pch → u.ng = s.ng →
    (rxHandler b u).T = (rxHandler b s).T ∧ (rxHandler b u).ps = (rxHandler b s).ps ∧
    (rxHandler b u).pch = (rxHandler b s).pch ∧ (rxHandler b u).ng = (rxHandler b s).ng)

/-! ## The commands -/

/-- Every command, in every state and with every operand, completes, and is its bytes received one after another
(30_encoding section 1, 41_command_framer section 3). Two of its clauses are the model's, deduced from 30_encoding section 5:
a command off a command boundary acts by position (log 13), and one with operands the encoding does not admit
acts as the bytes it is written with (log 14). -/
def Obligations.EveryCommandIsItsBytes : Prop :=
  ∀ (i : Instr) (s : State), exec i s = .next (receiveAll (encode i) s)

/-- `SETW ch, w` (41_command_framer rule R124): the entry is written, nothing else but `pch`; the next build enables the
channel with an on-time of `w` time-steps. -/
def Obligations.SetwWritesTheWidth : Prop :=
  ∀ (s : State) (ch : BitVec 3) (w : Byte), Settled s → s.ps = .awaitingChannel → w ≤ 250#8 →
    ∃ t : State, exec (.setw ch w) s = .next t ∧
      t = { s with T := s.T.set ch.toNat w (by omega), pch := chanByte ch } ∧
      (build t).M.getLsbD ch.toNat = true ∧
      ∀ n, n ≤ 250 → ((build t).W.read n).getLsbD ch.toNat = decide (n < w.toNat)

/-- `DIS ch` (41_command_framer rule R125): 251 is written; from the next build on the channel is never asserted. -/
def Obligations.DisDisablesTheChannel : Prop :=
  ∀ (s : State) (ch : BitVec 3), Settled s → s.ps = .awaitingChannel →
    ∃ t : State, exec (.dis ch) s = .next t ∧
      t = { s with T := s.T.set ch.toNat 251#8 (by omega), pch := chanByte ch } ∧
      (build t).M.getLsbD ch.toNat = false ∧ ∀ n, ((build t).W.read n).getLsbD ch.toNat = false

/-- `SETX ch, x` (41_command_framer rule R126): the value is stored as received, `ng` is not set, and from the next
build on the channel is disabled. That the value is passed through is the spec's decision D6 (log 8). -/
def Obligations.SetxStoresTheValueAsReceived : Prop :=
  ∀ (s : State) (ch : BitVec 3) (x : Byte), Settled s → s.ps = .awaitingChannel → 253#8 ≤ x →
    ∃ t : State, exec (.setx ch x) s = .next t ∧
      t = { s with T := s.T.set ch.toNat x (by omega), pch := chanByte ch } ∧
      (build t).M.getLsbD ch.toNat = false ∧ ∀ n, ((build t).W.read n).getLsbD ch.toNat = false

/-- `AUX v` (41_command_framer rule R127): all of `v` is stored, `aux` becomes its bit 0 in the same event, nothing
else changes but `pch`, and the builder does not read it. -/
def Obligations.AuxDrivesTheLineAtOnce : Prop :=
  ∀ (s : State) (v : Byte), Settled s → s.ps = .awaitingChannel → v ≠ 252#8 →
    ∃ t : State, exec (.aux v) s = .next t ∧ t = { s with T := s.T.set 8 v, pch := 8#8 } ∧
      t.aux = v.getLsbD 0 ∧ (build t).M = (build s).M ∧ (build t).W = (build s).W

/-- `AUXON` and `AUXOFF`, pseudo-commands of the spec's own (decision D30, log 9), are `AUX 1` and `AUX 0`, and complete with
the line high and low. -/
def Obligations.AuxonAndAuxoffSetTheLine : Prop :=
  ∀ s : State, exec .auxon s = exec (.aux 1#8) s ∧ exec .auxoff s = exec (.aux 0#8) s ∧
    (Settled s → s.ps = .awaitingChannel →
      (∃ t : State, exec .auxon s = .next t ∧ t = { s with T := s.T.set 8 1#8, pch := 8#8 } ∧ t.aux = true) ∧
      (∃ t : State, exec .auxoff s = .next t ∧ t = { s with T := s.T.set 8 0#8, pch := 8#8 } ∧ t.aux = false))

/-- `SKIP c, v` (41_command_framer rule R128): both bytes are consumed, nothing but `pch` changes, `ng` least of all. -/
def Obligations.SkipDropsThePair : Prop :=
  ∀ (s : State) (c v : Byte), Settled s → s.ps = .awaitingChannel → 8#8 < c → c ≠ 252#8 → v ≠ 252#8 →
    exec (.skip c v) s = .next { s with pch := c }

/-- `ABORT c` (41_command_framer rule R129): nothing is written whether or not `c <= 8`, and the next two bytes are a
fresh pair. -/
def Obligations.AbortAbandonsThePair : Prop :=
  ∀ (s : State) (c : Byte), Settled s → s.ps = .awaitingChannel → c ≠ 252#8 →
    exec (.abort c) s = .next { s with pch := c } ∧
    ∀ d v : Byte, d ≠ 252#8 → v ≠ 252#8 →
      receiveAll [c, 252#8, d, v] s = { s.writeTarget d v with pch := d }

/-- The frame of every command from a command boundary (41_command_framer section 3): all but one entry of `T` and `pch` is as
before. -/
def Obligations.CommandFrame : Prop :=
  ∀ (i : Instr) (s t : State), i.wf = true → Settled s → s.ps = .awaitingChannel → exec i s = .next t →
    t.M = s.M ∧ (∀ a, t.W.read a = s.W.read a) ∧ t.W = s.W ∧ t.ph = s.ph ∧ t.cnt = s.cnt ∧ t.rdy = s.rdy ∧
    t.ng = s.ng ∧ t.port = s.port ∧ t.idx = s.idx ∧ t.busy = s.busy ∧ t.built = s.built ∧
    t.stepTimer = s.stepTimer ∧ t.pending = s.pending ∧ t.ps = .awaitingChannel ∧
    (∀ j : Fin 9, (∀ b v : Byte, encode i = [b, v] → v ≠ 252#8 → b.toNat ≠ j.val) → t.T[j.val] = s.T[j.val]) ∧
    (∀ b v : Byte, encode i = [b, v] → t.pch = b) ∧ (encode i = [252#8] → t.pch = s.pch)

/-- 30_encoding rule R103, 70_reset_and_hazards rule R260, 41_command_framer rule R130: a two-byte command sent off a command boundary
is taken by position: its channel byte ends the pending pair (or is discarded with an anomaly in
an illegal `ps`), and its value byte is left waiting as a channel byte (log 13). -/
def Obligations.CommandOffBoundaryIsMisframed : Prop :=
  ∀ (i : Instr) (s : State) (b v : Byte), Settled s → encode i = [b, v] → b ≠ 252#8 → v ≠ 252#8 →
    (s.ps = .awaitingValue →
      exec i s = .next { s.writeTarget s.pch b with pch := v, ps := .awaitingValue }) ∧
    ((s.ps = .illegal2 ∨ s.ps = .illegal3) →
      exec i s = .next { s with ng := true, pch := v, ps := .awaitingValue })

/-! ## The phase sequencer -/

/-- 42_phase_sequencer section 1, with the `settle()` that follows (44_output_driver section 1): the playback starts, or the build
runs, if the driver is free. What an illegal phase leaves is the spec's decision D28, that the playback starts in
this event (port, index) is D20, its timer (44_output_driver section 2) is D21, and the latch of the build and the
waiting for an earlier playback are D18 and D23 (log 8). -/
def Obligations.TickMovesThePhase : Prop :=
  ∀ s : State, ∃ t : State, handle .tick s = .next t ∧
    (s.ph = .strobe → t.ph = .playback ∧ t.rdy = true ∧ t.cnt = s.cnt ∧ t.ng = s.ng ∧ t.busy = true ∧
      (s.busy = false → t.port = s.W.read 0 ∧ t.idx = 1#8 ∧ t.stepTimer = some 0) ∧
      (s.busy = true → t.port = s.port ∧ t.idx = s.idx ∧ t.stepTimer = s.stepTimer)) ∧
    (s.ph = .playback → t.ph = .idle ∧ t.cnt = 0#8 ∧ t.rdy = s.rdy ∧ t.ng = s.ng ∧
      (s.busy = false → s.built = false →
        t.built = true ∧ t.M = (build s).M ∧ t.W = (build s).W ∧ t.port = 0#8)) ∧
    (s.ph = .idle → t.cnt = s.cnt + 1#8 ∧ t.ph = (if 16#8 < s.cnt + 1#8 then .strobe else .idle) ∧
      t.rdy = s.rdy ∧ t.ng = s.ng) ∧
    (s.ph = .illegal → t.ph = .idle ∧ t.ng = true ∧ t.cnt = s.cnt ∧ t.rdy = s.rdy)

/-- 42_phase_sequencer rule R156: the `TICK` handler proper writes only `ph`, `cnt`, `rdy`, `ng`, and what it writes
depends on those alone; in the whole event `T`, `ps` and `pch` are not touched. -/
def Obligations.TickNeverTouchesTheCommands : Prop :=
  (∀ s : State, tickHandler s =
    { s with
      ph := (tickHandler s).ph, cnt := (tickHandler s).cnt, rdy := (tickHandler s).rdy, ng := (tickHandler s).ng }) ∧
  (∀ s u : State, u.ph = s.ph → u.cnt = s.cnt → u.rdy = s.rdy → u.ng = s.ng →
    (tickHandler u).ph = (tickHandler s).ph ∧ (tickHandler u).cnt = (tickHandler s).cnt ∧
    (tickHandler u).rdy = (tickHandler s).rdy ∧ (tickHandler u).ng = (tickHandler s).ng) ∧
  (∀ s t : State, handle .tick s = .next t →
    t.T = s.T ∧ t.aux = s.aux ∧ t.ps = s.ps ∧ t.pch = s.pch ∧ t.pending = s.pending)

/-- 42_phase_sequencer rule R155: from any Strobe, the next 19 `TICK`s visit exactly the phases of one cycle and return
to Strobe, whatever `RX` and `STEP` events come between them, whatever the tables hold, and
whether or not a playback has finished. -/
def Obligations.CycleIsNineteenTicks : Prop :=
  ∀ (es : List Event) (s t : State), s.ph = .strobe → Event.reset ∉ es → es.count .tick ≤ 19 →
    runEvents es s = .next t → (t.ph, t.cnt) = phaseAfterStrobe s.cnt (es.count .tick)

/-- 42_phase_sequencer rule R159, which the spec derives from the reset phase of its decision D8 (log 8): the phases of the
first 19 ticks after reset, and `rdy` raised by the 18th. -/
def Obligations.FirstCycleAfterReset : Prop :=
  ∀ (es : List Event) (q : List Stimulus) (t : State), Event.reset ∉ es →
    runEvents es { State.reset with pending := q } = .next t →
    (es.count .tick ≤ 19 → (t.ph, t.cnt) = phaseAfterReset (es.count .tick)) ∧
    (es.count .tick = 17 → ∃ u, handle .tick t = .next u ∧ u.ph = .playback ∧ u.rdy = true)

/-! ## The table builder -/

/-- 43_table_builder rules R173 and R174: the mask and every entry of the Waveform Table, bit by bit. -/
def Obligations.BuildComputesMaskAndWaveform : Prop :=
  ∀ (s : State) (i : Fin 8),
    (build s).M.getLsbD i.val = decide (s.T[i.val] ≤ 250#8) ∧
    (∀ t, t ≤ 250 → ((build s).W.read t).getLsbD i.val =
      (decide (t < s.T[i.val].toNat) && decide (s.T[i.val] ≤ 250#8)))

/-- 43_table_builder rule R179, which the spec derives from rules R173 and R174: the shape of every built table, clauses
(a) to (f). -/
def Obligations.ShapeOfEveryBuiltTable : Prop :=
  ∀ (s : State) (snap : Vector Byte 8), TablesFrom s snap →
    (∀ i : Fin 8, snap[i.val] ≤ 250#8 → ∀ t, t ≤ 250 →
      (s.W.read t).getLsbD i.val = decide (t < snap[i.val].toNat)) ∧
    (∀ t, t ≤ 249 → s.W.read (t + 1) &&& s.W.read t = s.W.read (t + 1)) ∧
    s.W.read 250 = 0#8 ∧
    (∀ i : Fin 8, (s.W.read 0).getLsbD i.val = (decide (1#8 ≤ snap[i.val]) && decide (snap[i.val] ≤ 250#8))) ∧
    (∀ i : Fin 8, s.M.getLsbD i.val = false → ∀ t, (s.W.read t).getLsbD i.val = false) ∧
    (∀ t, s.W.read t &&& s.M = s.W.read t)

/-- 43_table_builder rules R176 and R180: a build is a function of `T[0..7]` alone, it replaces `M` and all of `W`, it writes nothing
else, and building twice from an unchanged Target Table changes nothing. -/
def Obligations.BuildDependsOnlyOnTheTargets : Prop :=
  (∀ s u : State, (∀ i : Fin 8, u.T[i.val] = s.T[i.val]) → (build u).M = (build s).M ∧ (build u).W = (build s).W) ∧
  (∀ s : State, build s = { s with M := (build s).M, W := (build s).W }) ∧
  (∀ s : State, build (build s) = build s)

/-- 43_table_builder rule R175: writing the 251 entries one by one into any canonical table, in any order, gives the table the
model computes at once (the spec derives that the order is not observable); the spec's own loop, from 250 down to 0, is one of those orders. -/
def Obligations.WriteOrderIsNotObservable : Prop :=
  ∀ (snap : Vector Byte 8) (m : Memory), m.wf = true → m.inSpace = true →
    (∀ order : List Nat, order.Perm (List.range 251) →
      order.foldl (fun m t => m.write t (waveEntry snap t)) m = waveOf snap) ∧
    waveLoop snap 251 m = waveOf snap

/-- 43_table_builder rule R170, 10_state rule R22, 20_memory rule R77: `M` and `W` change only by a build, which happens only on
entering the build level in Idle, latches `built`, and takes its values from the Target Table of that instant (the latch and the one instant are the
spec's decisions D18 and D17, log 8). -/
def Obligations.TablesChangeOnlyByABuild : Prop :=
  ∀ (e : Event) (s t : State), handle e s = .next t →
    (t.M = s.M ∧ t.W = s.W) ∨
    (t.M = maskOf (snapshot t.T) ∧ t.W = waveOf (snapshot t.T) ∧ t.ph = .idle ∧ t.cnt = 0#8 ∧ t.built = true ∧
      t.busy = false)

/-- 43_table_builder rule R171: after the build, `RX` and `STEP` events in the rest of that tick never build again, even
though they change `T`; the `TICK` that ends it clears the latch (the spec's decision D18, log 8). -/
def Obligations.BuildRunsOncePerCycle : Prop :=
  ∀ (es : List Event) (s t : State), s.busy = false → s.ph = .idle → s.cnt = 0#8 → s.built = true →
    (∀ e ∈ es, e = .step ∨ ∃ b, e = .rx b) → runEvents es s = .next t →
    t.M = s.M ∧ t.W = s.W ∧ t.built = true ∧
    ∃ u, handle .tick t = .next u ∧ u.M = s.M ∧ u.W = s.W ∧ u.built = false ∧ u.cnt = 1#8

/-- 43_table_builder rule R182: when a playback is still in progress at the tick that ends the build level, no build happens
in that cycle: the tables are as they were until the next entry to Idle (the spec's decision D23, log 8). -/
def Obligations.MissedBuildKeepsTables : Prop :=
  ∀ (es : List Event) (s u t : State), s.busy = true → s.ph = .idle → s.cnt = 0#8 →
    handle .tick s = .next u → Event.reset ∉ es → es.count .tick ≤ 17 → runEvents es u = .next t →
    t.M = s.M ∧ t.W = s.W

/-- 70_reset_and_hazards rule R264: in a well-timed run, the build of a cycle has happened when the tick of the build level ends (the rule is marked derived). -/
def Obligations.WellTimedRunBuildsEveryCycle : Prop :=
  ∀ (es es' : List Event) (s t : State), BlockInv s → s.ph = .playback → Event.reset ∉ es → Event.reset ∉ es' →
    es.count .tick = 0 → es'.count .tick = 0 →
    wellTimed (es ++ [.tick] ++ es' ++ [.tick]) s = true →
    runEvents (es ++ [.tick] ++ es') s = .next t →
    t.ph = .idle ∧ t.cnt = 0#8 ∧ t.busy = false ∧ t.built = true

/-- 43_table_builder rule R183: after any sequence of commands, the next build sets bit `ch` of entry `t` iff `t < value` and
`value <= 250`, for the last value accepted for the channel; a channel not commanded keeps its value. -/
def Obligations.LastAcceptedValueIsBuilt : Prop :=
  ∀ (is : List Instr) (s : State), Settled s → s.ps = .awaitingChannel → (∀ i ∈ is, i.wf = true) →
    ∃ u : State, execAll is s = .next u ∧ ∀ ch : BitVec 3,
      (∀ value, lastValue is ch = some value → ∀ t, t ≤ 250 →
        ((build u).W.read t).getLsbD ch.toNat = (decide (t < value.toNat) && decide (value ≤ 250#8))) ∧
      (lastValue is ch = none → u.T[ch.toNat] = s.T[ch.toNat])

/-! ## The output driver -/

/-- 44_output_driver rules R191, R192, R195, R196, R197, R202, R204: what `settle()` does in each condition.
The latch, the start in the same event, the waiting for a playback and the illegal phase are the spec's decisions D18,
D20, D23 and D28, the timer D21 (log 8). -/
def Obligations.SettleActsOnThePhase : Prop :=
  ∀ s : State,
    (s.busy = true → settle s = s) ∧
    (s.busy = false →
      (s.ph = .strobe → settle s = { s with built := false, port := s.M }) ∧
      (s.ph = .playback → s.rdy = true → settle s =
        { s with built := false, port := s.W.read 0, idx := 1#8, busy := true, stepTimer := some 0 }) ∧
      (s.ph = .playback → s.rdy = false → settle s = { s with built := false }) ∧
      (s.ph = .idle → s.cnt = 0#8 → s.built = false → settle s = { build s with built := true, port := 0#8 }) ∧
      (s.ph = .idle → s.cnt = 0#8 → s.built = true → settle s = { s with port := 0#8 }) ∧
      (s.ph = .idle → s.cnt ≠ 0#8 → settle s = { s with built := false, port := 0#8 }) ∧
      (s.ph = .illegal → settle s = { s with built := false }))

/-- 44_output_driver rule R199: `settle()` is idempotent, and an `RX` in a settled state leaves `M`, `W`, `port`, `idx`,
`busy` and `built` unchanged (the rule is marked derived). -/
def Obligations.SettleIsIdempotent : Prop :=
  (∀ s : State, settle (settle s) = settle s) ∧
  (∀ (s t : State) (b : Byte), handle (.rx b) (settle s) = .next t →
    t.M = (settle s).M ∧ t.W = (settle s).W ∧ t.port = (settle s).port ∧ t.idx = (settle s).idx ∧
    t.busy = (settle s).busy ∧ t.built = (settle s).built)

/-- 44_output_driver rules R193, R194, R198, R203: a `STEP` writes the next entry to the port and reloads the timer, or writes
`W[250]`, ends the playback and stops the timer; with no playback it changes nothing. The event and the end are the
spec's decisions D21 and D22 (log 8). -/
def Obligations.StepPlaysTheNextEntry : Prop :=
  ∀ s : State,
    (s.busy = true → s.idx < 250#8 → handle .step s =
      .next { s with port := s.W.read s.idx.toNat, idx := s.idx + 1#8, stepTimer := some 0 }) ∧
    (s.busy = true → s.idx = 250#8 → handle .step s =
      .next (settle { s with port := s.W.read 250, busy := false, rdy := false, stepTimer := none })) ∧
    (s.busy = false → handle .step s = .next (settle s))

/-- The frame of a `STEP` event: the command stream, the phase, the counter and the diagnostic flag are as before
(44_output_driver rules R190, R193). -/
def Obligations.StepFrame : Prop :=
  ∀ s t : State, handle .step s = .next t →
    t.T = s.T ∧ t.aux = s.aux ∧ t.ps = s.ps ∧ t.pch = s.pch ∧ t.ph = s.ph ∧ t.cnt = s.cnt ∧ t.ng = s.ng ∧
    t.pending = s.pending ∧ (s.busy = true → s.idx ≠ 250#8 → ∀ a, t.W.read a = s.W.read a)

/-- 44_output_driver rules R194, R197, R205, 20_memory rule R74: whatever commands and ticks arrive meanwhile, the
`k`-th `STEP` of a playback puts `W[k]` of the table it started with on the port, for `k` up to
249, and the 250th ends it (the spec's decisions D21 to D23, log 8, and rules it derives). -/
def Obligations.PlaybackIsNeverDisturbed : Prop :=
  ∀ (es : List Event) (s t : State), s.busy = true → s.idx = 1#8 → s.port = s.W.read 0 → Event.reset ∉ es →
    es.count .step ≤ 249 → runEvents es s = .next t →
    t.busy = true ∧ t.idx.toNat = es.count .step + 1 ∧ t.port = s.W.read (es.count .step) ∧
    t.M = s.M ∧ t.W = s.W ∧ t.built = s.built ∧
    (es.count .step = 249 → ∃ u, handle .step t = .next u ∧ u.busy = false ∧ u.rdy = false ∧ u.idx = 250#8 ∧
      u.stepTimer = none)

/-- 44_output_driver rule R200: the pulse of a channel whose value at the last build was `snap[i]`. From the last Idle tick:
the `TICK` that enters Strobe raises the channel iff it is enabled, commands do not change that, and
after the `TICK` that starts the playback and `k` further `STEP`s the channel is still high iff
`k` is less than its width; a disabled channel is low throughout (the rule is marked derived). -/
def Obligations.PulseOfAChannel : Prop :=
  ∀ (s : State) (snap : Vector Byte 8) (i : Fin 8) (before during : List Event),
    TablesFrom s snap → s.ph = .idle → s.cnt = 16#8 → s.busy = false → s.rdy = false →
    (∀ e ∈ before, ∃ b, e = .rx b) → (∀ e ∈ during, e = .step ∨ ∃ b, e = .rx b) →
    ∃ t u : State,
      runEvents (.tick :: before) s = .next t ∧ t.ph = .strobe ∧
      t.port.getLsbD i.val = decide (snap[i.val] ≤ 250#8) ∧
      runEvents (.tick :: during) t = .next u ∧ u.ph = .playback ∧
      u.port.getLsbD i.val =
        (decide (during.count .step < snap[i.val].toNat) && decide (snap[i.val] ≤ 250#8))

/-- 20_memory rules R77 and R78 (the shortest latency): the widths that stand when Idle is entered, and no later ones, are on the
port as the mask 17 ticks later, whatever commands arrive in those ticks (the rules are marked derived). -/
def Obligations.BuildReachesThePortAtTheNextStrobe : Prop :=
  ∀ (es : List Event) (s t : State), BlockInv s → s.ph = .playback → s.busy = false → Event.reset ∉ es →
    es.count .tick = 18 → es.head? = some .tick → runEvents es s = .next t →
    t.ph = .strobe ∧ t.port = maskOf (snapshot s.T) ∧ t.W = waveOf (snapshot s.T)

/-- 20_memory rule R75: at every reachable instant both tables come from one snapshot, so a channel outside the mask is off
in every entry (the rule is marked derived). -/
def Obligations.MaskCoversTheWaveform : Prop :=
  ∀ s : State, BlockInv s →
    (∃ snap, s.M = maskOf snap ∧ s.W = waveOf snap) ∧
    ∀ i : Fin 8, s.M.getLsbD i.val = false → ∀ t, (s.W.read t).getLsbD i.val = false

/-! ## The diagnostic flag -/

/-- 10_state rule R36, 60_exceptions rules R221 to R225, R231: `ng` is set by exactly the two anomalies, stays set, and
is cleared by `RESET` only (one sticky bit: the spec's decision D25, log 8). -/
def Obligations.DiagnosticFlagIsSticky : Prop :=
  ∀ (e : Event) (s t : State), handle e s = .next t →
    t.ng = (decide (e ≠ .reset) && (s.ng || isAnomaly e s))

/-- 10_state rule R36: no rule of the block reads `ng`: changing it changes nothing but itself in what any event leaves,
and changes no outcome. -/
def Obligations.DiagnosticFlagIsNeverRead : Prop :=
  ∀ (e : Event) (s : State) (b : Bool),
    (∀ t, handle e s = .next t → handle e { s with ng := b } = .next { t with
      ng := decide (e ≠ .reset) && (b || isAnomaly e s) }) ∧
    (∀ r, handle e s = .refused r → handle e { s with ng := b } = .refused r)

/-! ## Simultaneous events and the clock -/

/-- 60_exceptions rule R229: the strobes of one clock cycle are handled in the order `RX`, `TICK`, `STEP`, and `RESET`
overrides all three (the spec's decision D24, log 8). The timer count that passes with the cycle is the model's (log 4, log 5). -/
def Obligations.StrobesOfACycleAreOrdered : Prop :=
  ∀ (c : CycleInputs) (s : State),
    (c.rst = true → clockCycle c s = .next { State.reset with pending := s.pending }) ∧
    (c.rst = false → clockCycle c s =
      andThen (if c.rxValid then handle (.rx c.rxData) s.advanceTimer else .next s.advanceTimer) fun u =>
        andThen (if c.tick then handle .tick u else .next u) fun v =>
          if s.timerExpires then handle .step v else .next v)

/-- 60_exceptions rule R229 (b): `TICK` and `STEP` together give the same state in either order, during a playback and, in a
run that has kept its time, at its end (the spec's decision D24, log 8). -/
def Obligations.TickAndStepCommute : Prop :=
  ∀ s : State, s.busy = true → s.idx ≤ 250#8 →
    (s.idx = 250#8 → s.ph = .playback ∧ s.built = false) →
    runEvents [.tick, .step] s = runEvents [.step, .tick] s

/-- 60_exceptions rule R229: `RX` and `TICK` commute unless the `TICK` triggers a build, which then sees the new value iff
the `RX` comes first (the spec's decision D24, log 8). -/
def Obligations.ReceiveAndTickCommute : Prop :=
  ∀ (s : State) (b : Byte), Settled s →
    ((tickHandler s).buildDue = false → runEvents [.rx b, .tick] s = runEvents [.tick, .rx b] s) ∧
    ((tickHandler s).buildDue = true →
      (∃ t, runEvents [.rx b, .tick] s = .next t ∧ t.M = maskOf (snapshot (rxHandler b s).T) ∧
        t.W = waveOf (snapshot (rxHandler b s).T)) ∧
      (∃ t, runEvents [.tick, .rx b] s = .next t ∧ t.M = maskOf (snapshot s.T) ∧ t.W = waveOf (snapshot s.T)))

/-- 44_output_driver rule R203: loaded during a playback, the step timer raises exactly one `STEP`, in clock cycle number
`STEP_CYCLES` after the load; before it only the count changes; while `busy = 0` it raises none.
The timer is the spec's decision D21 (log 8), its count the model's (log 4), and a period of 0 counts as 1 (log 17). -/
def Obligations.StepTimerExpiresAfterItsPeriod : Prop :=
  (∀ s : State, s.busy = true → s.stepTimer = some 0 → s.idx ≤ 250#8 →
    (∀ n, n < max 1 Config.stepCycles → idleCycles n s = .next { s with stepTimer := some n }) ∧
    idleCycles (max 1 Config.stepCycles) s = handle .step s) ∧
  (∀ s : State, s.busy = false → s.timerExpires = false)
end

