-- ==== Sys2Proof/Laws/Memory.lean ====
section
/-! SUPPORT. The laws of the two tables: read after write, the canonical form, and that equal reads are equal tables. -/

namespace Sys2Proof.Machine

@[simp] theorem read_nil (a : Nat) : Memory.read [] a = unlistedByte := rfl

/-- Below its first possible index a canonical table lists nothing. -/
theorem read_below {lo a : Nat} {m : Memory} (h : Memory.wfFrom lo m = true) (ha : a < lo) :
    m.read a = unlistedByte := by
  induction m generalizing lo with
  | nil => rfl
  | cons cell m ih =>
    obtain ⟨k, v⟩ := cell
    simp only [Memory.wfFrom, Bool.and_eq_true, decide_eq_true_eq] at h
    have hk : k ≠ a := by omega
    simp [Memory.read, hk, ih h.2 (by omega)]

theorem wfFrom_mono {lo lo' : Nat} {m : Memory} (h : Memory.wfFrom lo m = true) (hl : lo' ≤ lo) :
    Memory.wfFrom lo' m = true := by
  cases m with
  | nil => rfl
  | cons cell m =>
    simp only [Memory.wfFrom, Bool.and_eq_true, decide_eq_true_eq] at h ⊢
    exact ⟨⟨by omega, h.1.2⟩, h.2⟩

/-- A write keeps the canonical form. -/
theorem wfFrom_write {lo a : Nat} {m : Memory} (b : Byte) (h : Memory.wfFrom lo m = true) (ha : lo ≤ a) :
    Memory.wfFrom lo (m.write a b) = true := by
  induction m generalizing lo with
  | nil => by_cases hb : b = unlistedByte <;> simp [Memory.write, Memory.wfFrom, hb, ha]
  | cons cell m ih =>
    obtain ⟨k, v⟩ := cell
    simp only [Memory.wfFrom, Bool.and_eq_true, decide_eq_true_eq] at h
    obtain ⟨⟨hlo, hv⟩, hm⟩ := h
    unfold Memory.write
    split
    · rename_i hak
      by_cases hb : b = unlistedByte
      · simp [hb, Memory.wfFrom, hlo, hm, hv]
      · simp [hb, Memory.wfFrom, ha, hm, hv]; omega
    · split
      · rename_i hak
        subst hak
        by_cases hb : b = unlistedByte
        · simp only [hb, if_true]; exact wfFrom_mono hm (by omega)
        · simp [hb, Memory.wfFrom, hm, ha]
      · simp [Memory.wfFrom, hlo, hv, ih hm (by omega)]

theorem wf_write {m : Memory} (a : Nat) (b : Byte) (h : m.wf = true) : (m.write a b).wf = true :=
  wfFrom_write b h (Nat.zero_le a)

/-- A write to a location of the table lists only locations of the table. -/
theorem inSpace_write {m : Memory} {a : Nat} (b : Byte) (h : m.inSpace = true) (ha : inWaveSpace a = true) :
    (m.write a b).inSpace = true := by
  simp only [Memory.inSpace, List.all_eq_true] at h ⊢
  induction m with
  | nil => by_cases hb : b = unlistedByte <;> simp [Memory.write, hb, ha]
  | cons cell m ih =>
    obtain ⟨k, v⟩ := cell
    have hm : ∀ x ∈ m, inWaveSpace x.1 = true := fun x hx => h x (List.mem_cons_of_mem _ hx)
    have hk : inWaveSpace k = true := h (k, v) (List.mem_cons_self ..)
    intro x hx
    unfold Memory.write at hx
    split at hx
    · split at hx
      · exact h x hx
      · rcases List.mem_cons.mp hx with rfl | hx
        · exact ha
        · exact h x hx
    · split at hx
      · split at hx
        · exact hm x hx
        · rcases List.mem_cons.mp hx with rfl | hx
          · exact ha
          · exact hm x hx
      · rcases List.mem_cons.mp hx with rfl | hx
        · exact hk
        · exact ih hm x hx

/-- Read after write, same index. -/
theorem read_write_same {lo a : Nat} {m : Memory} (b : Byte) (h : Memory.wfFrom lo m = true) :
    (m.write a b).read a = b := by
  induction m generalizing lo with
  | nil => by_cases hb : b = unlistedByte <;> simp [Memory.write, Memory.read, hb]
  | cons cell m ih =>
    obtain ⟨k, v⟩ := cell
    simp only [Memory.wfFrom, Bool.and_eq_true, decide_eq_true_eq] at h
    unfold Memory.write
    split
    · rename_i hak
      by_cases hb : b = unlistedByte
      · have hk : k ≠ a := by omega
        simp [hb, Memory.read, hk, read_below h.2 (show a < k + 1 by omega)]
      · simp [hb, Memory.read]
    · split
      · rename_i hak
        subst hak
        by_cases hb : b = unlistedByte
        · simp [hb, read_below h.2 (show a < a + 1 by omega)]
        · simp [hb, Memory.read]
      · have hk : k ≠ a := by omega
        simp [Memory.read, hk, ih h.2]

/-- Read after write, another index. -/
theorem read_write_other {a c : Nat} {m : Memory} (b : Byte) (hc : c ≠ a) :
    (m.write a b).read c = m.read c := by
  induction m with
  | nil =>
    by_cases hb : b = unlistedByte
    · simp [Memory.write, hb]
    · simp [Memory.write, Memory.read, hb, hc.symm]
  | cons cell m ih =>
    obtain ⟨k, v⟩ := cell
    unfold Memory.write
    split
    · split <;> simp [Memory.read, hc.symm]
    · split
      · rename_i hak
        subst hak
        split <;> simp [Memory.read, hc.symm]
      · simp [Memory.read, ih]

/-- What a table reads below its first listed index, and at it. -/
theorem read_cons {k a : Nat} {v : Byte} {m : Memory} :
    Memory.read ((k, v) :: m) a = if k = a then v else m.read a := rfl

/-- Two canonical tables with the same reads are the same table. -/
theorem ext_of_read {lo lo' : Nat} {m m' : Memory} (h : Memory.wfFrom lo m = true)
    (h' : Memory.wfFrom lo' m' = true) (hr : ∀ a, m.read a = m'.read a) : m = m' := by
  induction m generalizing lo lo' m' with
  | nil =>
    cases m' with
    | nil => rfl
    | cons cell m' =>
      obtain ⟨k, v⟩ := cell
      simp only [Memory.wfFrom, Bool.and_eq_true, decide_eq_true_eq] at h'
      have hk := hr k
      simp [read_cons] at hk
      simp [← hk] at h'
  | cons cell m ih =>
    obtain ⟨k, v⟩ := cell
    simp only [Memory.wfFrom, Bool.and_eq_true, decide_eq_true_eq] at h
    cases m' with
    | nil =>
      have hk := hr k
      simp [read_cons] at hk
      simp [hk] at h
    | cons cell' m' =>
      obtain ⟨k', v'⟩ := cell'
      simp only [Memory.wfFrom, Bool.and_eq_true, decide_eq_true_eq] at h'
      have hkk : k = k' := by
        rcases Nat.lt_trichotomy k k' with hlt | heq | hgt
        · have hk := hr k
          have h1 : k' ≠ k := by omega
          simp [read_cons, h1, read_below h'.2 (show k < k' + 1 by omega)] at hk
          simp [hk] at h
        · exact heq
        · have hk := hr k'
          have h1 : k ≠ k' := by omega
          simp [read_cons, h1, read_below h.2 (show k' < k + 1 by omega)] at hk
          simp [← hk] at h'
      subst hkk
      have hv : v = v' := by simpa [read_cons] using hr k
      subst hv
      have hm : m = m' := by
        refine ih h.2 h'.2 fun a => ?_
        by_cases ha : k = a
        · subst ha
          rw [read_below h.2 (show k < k + 1 by omega), read_below h'.2 (show k < k + 1 by omega)]
        · simpa [read_cons, ha] using hr a
      rw [hm]

/-- The entry a channel byte selects, by its value (20_memory rule R61). -/
theorem targetIndex_of_le {c : Byte} (h : c.toNat ≤ 8) : targetIndex c = some ⟨c.toNat, by omega⟩ := by
  simp [targetIndex, h]

theorem targetIndex_of_gt {c : Byte} (h : 8 < c.toNat) : targetIndex c = none := by
  simp [targetIndex, Nat.not_le.mpr h]

/-- A write to a selected entry (41_command_framer rule R123). -/
theorem writeTarget_of_le (s : State) {c : Byte} (b : Byte) (h : c.toNat ≤ 8) :
    s.writeTarget c b = { s with T := s.T.set c.toNat b (by omega) } := by
  simp [State.writeTarget, targetIndex_of_le h]

/-- A write to no location is dropped (20_memory rule R61). -/
theorem writeTarget_of_gt (s : State) {c : Byte} (b : Byte) (h : 8 < c.toNat) : s.writeTarget c b = s := by
  simp [State.writeTarget, targetIndex_of_gt h]

end Sys2Proof.Machine
end

