-- ==== Sys2Proof/Laws/Builder.lean ====
section
/-! SUPPORT. What a build computes, bit by bit, and the form of the table it leaves. -/

namespace Sys2Proof.Machine

@[simp] theorem snapshot_getElem (T : Vector Byte 9) (i : Nat) (h : i < 8) :
    (snapshot T)[i] = T[i]'(by omega) := by
  simp [snapshot]

/-- Bit `i` of the mask (43_table_builder rule R173). -/
theorem getLsbD_maskOf (s : Vector Byte 8) (i : Nat) (h : i < 8) :
    (maskOf s).getLsbD i = channelEnabled s[i] := by
  simp [maskOf, h]

/-- Bit `i` of the on-mask (43_table_builder rule R174). -/
theorem getLsbD_onMask (s : Vector Byte 8) (t i : Nat) (h : i < 8) :
    (onMask s t).getLsbD i = onAt t s[i] := by
  simp [onMask, h]

/-- Bit `i` of the entry for time-step `t` (43_table_builder rule R174). -/
theorem getLsbD_waveEntry (s : Vector Byte 8) (t i : Nat) (h : i < 8) :
    (waveEntry s t).getLsbD i = (onAt t s[i] && channelEnabled s[i]) := by
  simp [waveEntry, getLsbD_maskOf s i h, getLsbD_onMask s t i h]

/-- The entries of a range of time-steps read as themselves, and everything else as unlisted. -/
theorem read_filterMap_range' (e : Nat → Byte) (lo n a : Nat) :
    Memory.read ((List.range' lo n).filterMap fun t => if e t = unlistedByte then none else some (t, e t)) a =
      if lo ≤ a ∧ a < lo + n then e a else unlistedByte := by
  induction n generalizing lo with
  | zero => simp
  | succ n ih =>
    rw [List.range'_succ, List.filterMap_cons]
    by_cases he : e lo = unlistedByte
    · simp only [he, if_true, ih]
      by_cases ha : lo = a
      · subst ha; simp [he]
      · congr 1; simp; omega
    · simp only [he, if_false, read_cons, ih]
      by_cases ha : lo = a
      · subst ha; simp
      · simp only [ha, if_false]; congr 1; simp; omega

theorem wfFrom_filterMap_range' (e : Nat → Byte) (lo n : Nat) :
    Memory.wfFrom lo ((List.range' lo n).filterMap fun t => if e t = unlistedByte then none else some (t, e t)) = true := by
  induction n generalizing lo with
  | zero => simp [Memory.wfFrom]
  | succ n ih =>
    rw [List.range'_succ, List.filterMap_cons]
    by_cases he : e lo = unlistedByte
    · simpa [he] using wfFrom_mono (ih (lo + 1)) (by omega)
    · simp [he, Memory.wfFrom, ih (lo + 1)]

/-- Every location of a built table reads as its entry (43_table_builder rules R174, R176). -/
theorem read_waveOf (s : Vector Byte 8) (t : Nat) :
    (waveOf s).read t = if t < 251 then waveEntry s t else unlistedByte := by
  simp [waveOf, List.range_eq_range', read_filterMap_range']

/-- A built table is canonical. -/
theorem wf_waveOf (s : Vector Byte 8) : (waveOf s).wf = true := by
  simp only [waveOf, List.range_eq_range', Memory.wf]
  exact wfFrom_filterMap_range' ..

/-- A built table lists only locations of the Waveform Table. -/
theorem inSpace_waveOf (s : Vector Byte 8) : (waveOf s).inSpace = true := by
  simp only [waveOf, Memory.inSpace, List.all_eq_true, List.mem_filterMap, List.mem_range, inWaveSpace]
  rintro ⟨k, v⟩ ⟨t, ht, h⟩
  split at h
  · cases h
  · cases h; simpa using ht

/-- The last entry is zero whatever the snapshot (43_table_builder rule R179 (c)). -/
theorem waveEntry_last (s : Vector Byte 8) : waveEntry s 250 = 0#8 := by
  apply BitVec.eq_of_getLsbD_eq
  intro i hi
  rw [getLsbD_waveEntry s 250 i hi]
  simp [onAt, channelEnabled, BitVec.le_def]

end Sys2Proof.Machine
end

