-- ==== Sys2Proof/Laws/Decode.lean ====
section
/-! SUPPORT. The small facts of the encoding: channel bytes, and `decodePair` by the values of its bytes. -/

namespace Sys2Proof

@[simp] theorem toNat_chanByte (ch : BitVec 3) : (chanByte ch).toNat = ch.toNat := by
  simp [chanByte]; omega

/-- A pulse channel's byte is below 8 (30_encoding rule R93). -/
theorem chanByte_lt (ch : BitVec 3) : chanByte ch < 8#8 := by
  simp [BitVec.lt_def]; omega

/-- A pulse channel's byte is never the reset byte (30_encoding rule R93). -/
theorem chanByte_ne_resetByte (ch : BitVec 3) : chanByte ch ≠ 252#8 := fun h => by
  have := congrArg BitVec.toNat h
  simp at this; omega

/-- The field `ccc` read from a channel byte is the channel. -/
@[simp] theorem truncate_chanByte (ch : BitVec 3) : (chanByte ch).truncate 3 = ch := by
  apply BitVec.eq_of_toNat_eq
  simp [chanByte]

/-- A byte below 8 is the channel byte of its low three bits. -/
theorem chanByte_truncate {c : Byte} (h : c < 8#8) : chanByte (c.truncate 3) = c := by
  apply BitVec.eq_of_toNat_eq
  simp [BitVec.lt_def] at h
  simp; omega

theorem decodePair_abort (c : Byte) : decodePair c 252#8 = .abort c := by simp [decodePair]

theorem decodePair_setw {c v : Byte} (hc : c < 8#8) (hv : v ≤ 250#8) :
    decodePair c v = .setw (c.truncate 3) v := by
  have h : v ≠ 252#8 := fun h => by simp [h, BitVec.le_def] at hv
  simp [decodePair, h, hc, hv]

theorem decodePair_dis {c : Byte} (hc : c < 8#8) : decodePair c 251#8 = .dis (c.truncate 3) := by
  simp [decodePair, hc]

theorem decodePair_setx {c v : Byte} (hc : c < 8#8) (hv : 252#8 < v) :
    decodePair c v = .setx (c.truncate 3) v := by
  simp [BitVec.lt_def] at hv
  have h : v ≠ 252#8 := fun h => by simp [h] at hv
  have h1 : v ≠ 251#8 := fun h => by simp [h] at hv
  have h2 : ¬ v ≤ 250#8 := by simp [BitVec.le_def]; omega
  simp [decodePair, h, h1, h2, hc]

theorem decodePair_aux {v : Byte} (hv : v ≠ 252#8) : decodePair 8#8 v = .aux v := by
  simp [decodePair, hv]

theorem decodePair_skip {c v : Byte} (hc : 8#8 < c) (hv : v ≠ 252#8) : decodePair c v = .skip c v := by
  simp [BitVec.lt_def] at hc
  have h : c ≠ 8#8 := fun h => by simp [h] at hc
  have h2 : ¬ c < 8#8 := by simp [BitVec.lt_def]; omega
  simp [decodePair, hv, h, h2]

end Sys2Proof
end

