-- ==== Sys2Proof/Laws/State.lean ====
section
/-! SUPPORT. One lemma per field per update: what each named operation does to each field of the state, so
that no later proof unfolds a record update. -/

namespace Sys2Proof.Machine

/-! ### `State.raiseDiag` -/

@[simp] theorem raiseDiag_T (s : State) (c : DiagCause) : (s.raiseDiag c).T = s.T := rfl
@[simp] theorem raiseDiag_M (s : State) (c : DiagCause) : (s.raiseDiag c).M = s.M := rfl
@[simp] theorem raiseDiag_W (s : State) (c : DiagCause) : (s.raiseDiag c).W = s.W := rfl
@[simp] theorem raiseDiag_ps (s : State) (c : DiagCause) : (s.raiseDiag c).ps = s.ps := rfl
@[simp] theorem raiseDiag_pch (s : State) (c : DiagCause) : (s.raiseDiag c).pch = s.pch := rfl
@[simp] theorem raiseDiag_ph (s : State) (c : DiagCause) : (s.raiseDiag c).ph = s.ph := rfl
@[simp] theorem raiseDiag_cnt (s : State) (c : DiagCause) : (s.raiseDiag c).cnt = s.cnt := rfl
@[simp] theorem raiseDiag_rdy (s : State) (c : DiagCause) : (s.raiseDiag c).rdy = s.rdy := rfl
@[simp] theorem raiseDiag_ng (s : State) (c : DiagCause) : (s.raiseDiag c).ng = true := rfl
@[simp] theorem raiseDiag_port (s : State) (c : DiagCause) : (s.raiseDiag c).port = s.port := rfl
@[simp] theorem raiseDiag_idx (s : State) (c : DiagCause) : (s.raiseDiag c).idx = s.idx := rfl
@[simp] theorem raiseDiag_busy (s : State) (c : DiagCause) : (s.raiseDiag c).busy = s.busy := rfl
@[simp] theorem raiseDiag_built (s : State) (c : DiagCause) : (s.raiseDiag c).built = s.built := rfl
@[simp] theorem raiseDiag_stepTimer (s : State) (c : DiagCause) : (s.raiseDiag c).stepTimer = s.stepTimer := rfl
@[simp] theorem raiseDiag_pending (s : State) (c : DiagCause) : (s.raiseDiag c).pending = s.pending := rfl

/-! ### `State.writeTarget` -/

@[simp] theorem writeTarget_M (s : State) (c b : Byte) : (s.writeTarget c b).M = s.M := by
  unfold State.writeTarget; split <;> rfl
@[simp] theorem writeTarget_W (s : State) (c b : Byte) : (s.writeTarget c b).W = s.W := by
  unfold State.writeTarget; split <;> rfl
@[simp] theorem writeTarget_ps (s : State) (c b : Byte) : (s.writeTarget c b).ps = s.ps := by
  unfold State.writeTarget; split <;> rfl
@[simp] theorem writeTarget_pch (s : State) (c b : Byte) : (s.writeTarget c b).pch = s.pch := by
  unfold State.writeTarget; split <;> rfl
@[simp] theorem writeTarget_ph (s : State) (c b : Byte) : (s.writeTarget c b).ph = s.ph := by
  unfold State.writeTarget; split <;> rfl
@[simp] theorem writeTarget_cnt (s : State) (c b : Byte) : (s.writeTarget c b).cnt = s.cnt := by
  unfold State.writeTarget; split <;> rfl
@[simp] theorem writeTarget_rdy (s : State) (c b : Byte) : (s.writeTarget c b).rdy = s.rdy := by
  unfold State.writeTarget; split <;> rfl
@[simp] theorem writeTarget_ng (s : State) (c b : Byte) : (s.writeTarget c b).ng = s.ng := by
  unfold State.writeTarget; split <;> rfl
@[simp] theorem writeTarget_port (s : State) (c b : Byte) : (s.writeTarget c b).port = s.port := by
  unfold State.writeTarget; split <;> rfl
@[simp] theorem writeTarget_idx (s : State) (c b : Byte) : (s.writeTarget c b).idx = s.idx := by
  unfold State.writeTarget; split <;> rfl
@[simp] theorem writeTarget_busy (s : State) (c b : Byte) : (s.writeTarget c b).busy = s.busy := by
  unfold State.writeTarget; split <;> rfl
@[simp] theorem writeTarget_built (s : State) (c b : Byte) : (s.writeTarget c b).built = s.built := by
  unfold State.writeTarget; split <;> rfl
@[simp] theorem writeTarget_stepTimer (s : State) (c b : Byte) : (s.writeTarget c b).stepTimer = s.stepTimer := by
  unfold State.writeTarget; split <;> rfl
@[simp] theorem writeTarget_pending (s : State) (c b : Byte) : (s.writeTarget c b).pending = s.pending := by
  unfold State.writeTarget; split <;> rfl

/-! ### `build` -/

@[simp] theorem build_T (s : State) : (build s).T = s.T := rfl
@[simp] theorem build_M (s : State) : (build s).M = maskOf (snapshot s.T) := rfl
@[simp] theorem build_W (s : State) : (build s).W = waveOf (snapshot s.T) := rfl
@[simp] theorem build_ps (s : State) : (build s).ps = s.ps := rfl
@[simp] theorem build_pch (s : State) : (build s).pch = s.pch := rfl
@[simp] theorem build_ph (s : State) : (build s).ph = s.ph := rfl
@[simp] theorem build_cnt (s : State) : (build s).cnt = s.cnt := rfl
@[simp] theorem build_rdy (s : State) : (build s).rdy = s.rdy := rfl
@[simp] theorem build_ng (s : State) : (build s).ng = s.ng := rfl
@[simp] theorem build_port (s : State) : (build s).port = s.port := rfl
@[simp] theorem build_idx (s : State) : (build s).idx = s.idx := rfl
@[simp] theorem build_busy (s : State) : (build s).busy = s.busy := rfl
@[simp] theorem build_built (s : State) : (build s).built = s.built := rfl
@[simp] theorem build_stepTimer (s : State) : (build s).stepTimer = s.stepTimer := rfl
@[simp] theorem build_pending (s : State) : (build s).pending = s.pending := rfl

/-! ### `startPlayback` -/

@[simp] theorem startPlayback_T (s : State) : (startPlayback s).T = s.T := rfl
@[simp] theorem startPlayback_M (s : State) : (startPlayback s).M = s.M := rfl
@[simp] theorem startPlayback_W (s : State) : (startPlayback s).W = s.W := rfl
@[simp] theorem startPlayback_ps (s : State) : (startPlayback s).ps = s.ps := rfl
@[simp] theorem startPlayback_pch (s : State) : (startPlayback s).pch = s.pch := rfl
@[simp] theorem startPlayback_ph (s : State) : (startPlayback s).ph = s.ph := rfl
@[simp] theorem startPlayback_cnt (s : State) : (startPlayback s).cnt = s.cnt := rfl
@[simp] theorem startPlayback_rdy (s : State) : (startPlayback s).rdy = s.rdy := rfl
@[simp] theorem startPlayback_ng (s : State) : (startPlayback s).ng = s.ng := rfl
@[simp] theorem startPlayback_port (s : State) : (startPlayback s).port = s.W.read 0 := rfl
@[simp] theorem startPlayback_idx (s : State) : (startPlayback s).idx = 1#8 := rfl
@[simp] theorem startPlayback_busy (s : State) : (startPlayback s).busy = true := rfl
@[simp] theorem startPlayback_built (s : State) : (startPlayback s).built = s.built := rfl
@[simp] theorem startPlayback_stepTimer (s : State) : (startPlayback s).stepTimer = some 0 := rfl
@[simp] theorem startPlayback_pending (s : State) : (startPlayback s).pending = s.pending := rfl

/-! ### `clearLatch` -/

@[simp] theorem clearLatch_T (s : State) : (clearLatch s).T = s.T := by
  unfold clearLatch; split <;> simp_all
@[simp] theorem clearLatch_M (s : State) : (clearLatch s).M = s.M := by
  unfold clearLatch; split <;> simp_all
@[simp] theorem clearLatch_W (s : State) : (clearLatch s).W = s.W := by
  unfold clearLatch; split <;> simp_all
@[simp] theorem clearLatch_ps (s : State) : (clearLatch s).ps = s.ps := by
  unfold clearLatch; split <;> simp_all
@[simp] theorem clearLatch_pch (s : State) : (clearLatch s).pch = s.pch := by
  unfold clearLatch; split <;> simp_all
@[simp] theorem clearLatch_ph (s : State) : (clearLatch s).ph = s.ph := by
  unfold clearLatch; split <;> simp_all
@[simp] theorem clearLatch_cnt (s : State) : (clearLatch s).cnt = s.cnt := by
  unfold clearLatch; split <;> simp_all
@[simp] theorem clearLatch_rdy (s : State) : (clearLatch s).rdy = s.rdy := by
  unfold clearLatch; split <;> simp_all
@[simp] theorem clearLatch_ng (s : State) : (clearLatch s).ng = s.ng := by
  unfold clearLatch; split <;> simp_all
@[simp] theorem clearLatch_port (s : State) : (clearLatch s).port = s.port := by
  unfold clearLatch; split <;> simp_all
@[simp] theorem clearLatch_idx (s : State) : (clearLatch s).idx = s.idx := by
  unfold clearLatch; split <;> simp_all
@[simp] theorem clearLatch_busy (s : State) : (clearLatch s).busy = s.busy := by
  unfold clearLatch; split <;> simp_all
@[simp] theorem clearLatch_built (s : State) : (clearLatch s).built = (s.buildLevel && s.built) := by
  unfold clearLatch; split <;> simp_all
@[simp] theorem clearLatch_stepTimer (s : State) : (clearLatch s).stepTimer = s.stepTimer := by
  unfold clearLatch; split <;> simp_all
@[simp] theorem clearLatch_pending (s : State) : (clearLatch s).pending = s.pending := by
  unfold clearLatch; split <;> simp_all

/-! ### `buildIfDue` -/

@[simp] theorem buildIfDue_T (s : State) : (buildIfDue s).T = s.T := by
  unfold buildIfDue; split <;> rfl
@[simp] theorem buildIfDue_ps (s : State) : (buildIfDue s).ps = s.ps := by
  unfold buildIfDue; split <;> rfl
@[simp] theorem buildIfDue_pch (s : State) : (buildIfDue s).pch = s.pch := by
  unfold buildIfDue; split <;> rfl
@[simp] theorem buildIfDue_ph (s : State) : (buildIfDue s).ph = s.ph := by
  unfold buildIfDue; split <;> rfl
@[simp] theorem buildIfDue_cnt (s : State) : (buildIfDue s).cnt = s.cnt := by
  unfold buildIfDue; split <;> rfl
@[simp] theorem buildIfDue_rdy (s : State) : (buildIfDue s).rdy = s.rdy := by
  unfold buildIfDue; split <;> rfl
@[simp] theorem buildIfDue_ng (s : State) : (buildIfDue s).ng = s.ng := by
  unfold buildIfDue; split <;> rfl
@[simp] theorem buildIfDue_port (s : State) : (buildIfDue s).port = s.port := by
  unfold buildIfDue; split <;> rfl
@[simp] theorem buildIfDue_idx (s : State) : (buildIfDue s).idx = s.idx := by
  unfold buildIfDue; split <;> rfl
@[simp] theorem buildIfDue_busy (s : State) : (buildIfDue s).busy = s.busy := by
  unfold buildIfDue; split <;> rfl
@[simp] theorem buildIfDue_stepTimer (s : State) : (buildIfDue s).stepTimer = s.stepTimer := by
  unfold buildIfDue; split <;> rfl
@[simp] theorem buildIfDue_pending (s : State) : (buildIfDue s).pending = s.pending := by
  unfold buildIfDue; split <;> rfl

/-! ### `State.advanceTimer` -/

@[simp] theorem advanceTimer_T (s : State) : (s.advanceTimer).T = s.T := rfl
@[simp] theorem advanceTimer_M (s : State) : (s.advanceTimer).M = s.M := rfl
@[simp] theorem advanceTimer_W (s : State) : (s.advanceTimer).W = s.W := rfl
@[simp] theorem advanceTimer_ps (s : State) : (s.advanceTimer).ps = s.ps := rfl
@[simp] theorem advanceTimer_pch (s : State) : (s.advanceTimer).pch = s.pch := rfl
@[simp] theorem advanceTimer_ph (s : State) : (s.advanceTimer).ph = s.ph := rfl
@[simp] theorem advanceTimer_cnt (s : State) : (s.advanceTimer).cnt = s.cnt := rfl
@[simp] theorem advanceTimer_rdy (s : State) : (s.advanceTimer).rdy = s.rdy := rfl
@[simp] theorem advanceTimer_ng (s : State) : (s.advanceTimer).ng = s.ng := rfl
@[simp] theorem advanceTimer_port (s : State) : (s.advanceTimer).port = s.port := rfl
@[simp] theorem advanceTimer_idx (s : State) : (s.advanceTimer).idx = s.idx := rfl
@[simp] theorem advanceTimer_busy (s : State) : (s.advanceTimer).busy = s.busy := rfl
@[simp] theorem advanceTimer_built (s : State) : (s.advanceTimer).built = s.built := rfl
@[simp] theorem advanceTimer_stepTimer (s : State) : (s.advanceTimer).stepTimer = s.stepTimer.map (· + 1) := rfl
@[simp] theorem advanceTimer_pending (s : State) : (s.advanceTimer).pending = s.pending := rfl

/-! ### `State.requeue` -/

@[simp] theorem requeue_T (s : State) (bs : List Byte) : (s.requeue bs).T = s.T := by
  cases bs <;> rfl
@[simp] theorem requeue_M (s : State) (bs : List Byte) : (s.requeue bs).M = s.M := by
  cases bs <;> rfl
@[simp] theorem requeue_W (s : State) (bs : List Byte) : (s.requeue bs).W = s.W := by
  cases bs <;> rfl
@[simp] theorem requeue_ps (s : State) (bs : List Byte) : (s.requeue bs).ps = s.ps := by
  cases bs <;> rfl
@[simp] theorem requeue_pch (s : State) (bs : List Byte) : (s.requeue bs).pch = s.pch := by
  cases bs <;> rfl
@[simp] theorem requeue_ph (s : State) (bs : List Byte) : (s.requeue bs).ph = s.ph := by
  cases bs <;> rfl
@[simp] theorem requeue_cnt (s : State) (bs : List Byte) : (s.requeue bs).cnt = s.cnt := by
  cases bs <;> rfl
@[simp] theorem requeue_rdy (s : State) (bs : List Byte) : (s.requeue bs).rdy = s.rdy := by
  cases bs <;> rfl
@[simp] theorem requeue_ng (s : State) (bs : List Byte) : (s.requeue bs).ng = s.ng := by
  cases bs <;> rfl
@[simp] theorem requeue_port (s : State) (bs : List Byte) : (s.requeue bs).port = s.port := by
  cases bs <;> rfl
@[simp] theorem requeue_idx (s : State) (bs : List Byte) : (s.requeue bs).idx = s.idx := by
  cases bs <;> rfl
@[simp] theorem requeue_busy (s : State) (bs : List Byte) : (s.requeue bs).busy = s.busy := by
  cases bs <;> rfl
@[simp] theorem requeue_built (s : State) (bs : List Byte) : (s.requeue bs).built = s.built := by
  cases bs <;> rfl
@[simp] theorem requeue_stepTimer (s : State) (bs : List Byte) : (s.requeue bs).stepTimer = s.stepTimer := by
  cases bs <;> rfl

end Sys2Proof.Machine
end

