-- ==== Sys2Proof/Laws/Driver.lean ====
section
/-! SUPPORT. What `settle()` and the `STEP` handler do, case by case (44_output_driver rules R190 to R204). -/

namespace Sys2Proof.Machine

/-! ## `settle()`, one equation per case -/

/-- While a playback is in progress nothing happens (44_output_driver rule R197). -/
theorem settle_busy {s : State} (h : s.busy = true) : settle s = s := by simp [settle, h]

/-- Strobe (44_output_driver rules R191, R202). -/
theorem settle_strobe {s : State} (h : s.busy = false) (hp : s.ph = .strobe) :
    settle s = { s with built := false, port := s.M } := by
  simp [settle, clearLatch, State.buildLevel, h, hp]

/-- Playback with the flag up: the playback starts (44_output_driver rules R192, R202). -/
theorem settle_playback_ready {s : State} (h : s.busy = false) (hp : s.ph = .playback) (hr : s.rdy = true) :
    settle s =
      { s with built := false, port := s.W.read 0, idx := 1#8, busy := true, stepTimer := some 0 } := by
  simp [settle, clearLatch, State.buildLevel, startPlayback, h, hp, hr]

/-- Playback with the flag down: the port holds (44_output_driver rules R195, R202). -/
theorem settle_playback_waiting {s : State} (h : s.busy = false) (hp : s.ph = .playback) (hr : s.rdy = false) :
    settle s = { s with built := false } := by
  simp [settle, clearLatch, State.buildLevel, h, hp, hr]

/-- Idle with a build due (43_table_builder rule R170, 44_output_driver rule R196). -/
theorem settle_idle_due {s : State} (h : s.busy = false) (hp : s.ph = .idle) (hc : s.cnt = 0#8)
    (hb : s.built = false) :
    settle s =
      { s with
        M := maskOf (snapshot s.T), W := waveOf (snapshot s.T), built := true, port := 0x00#8 } := by
  simp [settle, clearLatch, State.buildLevel, buildIfDue, build, h, hp, hc, hb]

/-- Idle, in the tick of the build, after it (43_table_builder rule R171). -/
theorem settle_idle_built {s : State} (h : s.busy = false) (hp : s.ph = .idle) (hc : s.cnt = 0#8)
    (hb : s.built = true) : settle s = { s with port := 0x00#8 } := by
  simp [settle, clearLatch, State.buildLevel, buildIfDue, h, hp, hc, hb]

/-- Idle, later ticks (44_output_driver rules R196, R202). -/
theorem settle_idle_counting {s : State} (h : s.busy = false) (hp : s.ph = .idle) (hc : s.cnt ≠ 0#8) :
    settle s = { s with built := false, port := 0x00#8 } := by
  simp [settle, clearLatch, State.buildLevel, buildIfDue, h, hp, hc]

/-- The illegal phase (44_output_driver rule R204). -/
theorem settle_illegal {s : State} (h : s.busy = false) (hp : s.ph = .illegal) :
    settle s = { s with built := false } := by
  simp [settle, clearLatch, State.buildLevel, h, hp]

/-- Everything `settle()` can do, as one disjunction: the case split every later proof starts from. -/
theorem settle_cases (s : State) :
    (s.busy = true ∧ settle s = s) ∨
    (s.busy = false ∧ s.ph = .strobe ∧ settle s = { s with built := false, port := s.M }) ∨
    (s.busy = false ∧ s.ph = .playback ∧ s.rdy = true ∧ settle s =
      { s with built := false, port := s.W.read 0, idx := 1#8, busy := true, stepTimer := some 0 }) ∨
    (s.busy = false ∧ s.ph = .playback ∧ s.rdy = false ∧ settle s = { s with built := false }) ∨
    (s.busy = false ∧ s.ph = .idle ∧ s.cnt = 0#8 ∧ s.built = false ∧ settle s =
      { s with
        M := maskOf (snapshot s.T), W := waveOf (snapshot s.T), built := true, port := 0x00#8 }) ∨
    (s.busy = false ∧ s.ph = .idle ∧ s.cnt = 0#8 ∧ s.built = true ∧ settle s = { s with port := 0x00#8 }) ∨
    (s.busy = false ∧ s.ph = .idle ∧ s.cnt ≠ 0#8 ∧ settle s = { s with built := false, port := 0x00#8 }) ∨
    (s.busy = false ∧ s.ph = .illegal ∧ settle s = { s with built := false }) := by
  cases h : s.busy with
  | true => simp [settle_busy h]
  | false =>
    cases hp : s.ph with
    | strobe => simp [settle_strobe h hp, h, hp]
    | illegal => simp [settle_illegal h hp, h, hp]
    | playback =>
      cases hr : s.rdy with
      | true => simp [settle_playback_ready h hp hr, hp, hr]
      | false => simp [settle_playback_waiting h hp hr, h, hp, hr]
    | idle =>
      by_cases hc : s.cnt = 0#8
      · cases hb : s.built with
        | true => simp [settle_idle_built h hp hc hb, hc, h, hp, hb]
        | false => simp [settle_idle_due h hp hc hb, hc, h, hp]
      · simp [settle_idle_counting h hp hc, hc, h, hp]

/-- What a settled state looks like, field by field (44_output_driver rule R199). -/
def SettledForm (s : State) : Prop :=
  s.busy = true ∨
    (s.ph = .strobe ∧ s.built = false ∧ s.port = s.M) ∨
    (s.ph = .playback ∧ s.rdy = false ∧ s.built = false) ∨
    (s.ph = .idle ∧ s.cnt = 0#8 ∧ s.built = true ∧ s.port = 0#8) ∨
    (s.ph = .idle ∧ s.cnt ≠ 0#8 ∧ s.built = false ∧ s.port = 0#8) ∨
    (s.ph = .illegal ∧ s.built = false)

/-- A state is settled exactly when it has that form. -/
theorem settled_iff (s : State) : settle s = s ↔ SettledForm s := by
  constructor
  · intro h
    rcases settle_cases s with ⟨hb, -⟩ | ⟨hb, hp, he⟩ | ⟨hb, hp, hr, he⟩ | ⟨hb, hp, hr, he⟩ | ⟨hb, hp, hc, hl, he⟩ |
      ⟨hb, hp, hc, hl, he⟩ | ⟨hb, hp, hc, he⟩ | ⟨hb, hp, he⟩
    · exact .inl hb
    all_goals
      rw [he] at h
      have h1 := congrArg State.busy h
      have h2 := congrArg State.built h
      have h3 := congrArg State.port h
      simp_all [SettledForm]
  · rintro (h | ⟨hp, hl, ht⟩ | ⟨hp, hr, hl⟩ | ⟨hp, hc, hl, ht⟩ | ⟨hp, hc, hl, ht⟩ | ⟨hp, hl⟩)
    · exact settle_busy h
    all_goals
      by_cases hb : s.busy = true
      · exact settle_busy hb
      · have hb : s.busy = false := by simpa using hb
        cases s
        simp_all [settle, clearLatch, State.buildLevel, buildIfDue]

/-! ## What `settle()` never writes (44_output_driver rule R190) -/

/-- A field that every case of `settle()` leaves alone. -/
theorem settle_keeps {α : Type} (f : State → α) (s : State)
    (hf : ∀ M W port idx busy built stepTimer,
      f { s with M := M, W := W, port := port, idx := idx, busy := busy, built := built, stepTimer := stepTimer } = f s) :
    f (settle s) = f s := by
  rcases settle_cases s with h | h | h | h | h | h | h | h <;> obtain ⟨-, h⟩ := h
  · rw [h]
  · rw [h.2]; exact hf s.M s.W s.M s.idx s.busy false s.stepTimer
  · rw [h.2.2]; exact hf s.M s.W (s.W.read 0) 1#8 true false (some 0)
  · rw [h.2.2]; exact hf s.M s.W s.port s.idx s.busy false s.stepTimer
  · rw [h.2.2.2]; exact hf _ _ 0#8 s.idx s.busy true s.stepTimer
  · rw [h.2.2.2]; exact hf s.M s.W 0#8 s.idx s.busy s.built s.stepTimer
  · rw [h.2.2]; exact hf s.M s.W 0#8 s.idx s.busy false s.stepTimer
  · rw [h.2]; exact hf s.M s.W s.port s.idx s.busy false s.stepTimer

@[simp] theorem settle_T (s : State) : (settle s).T = s.T := settle_keeps (·.T) s fun _ _ _ _ _ _ _ => rfl
@[simp] theorem settle_ps (s : State) : (settle s).ps = s.ps := settle_keeps (·.ps) s fun _ _ _ _ _ _ _ => rfl
@[simp] theorem settle_pch (s : State) : (settle s).pch = s.pch := settle_keeps (·.pch) s fun _ _ _ _ _ _ _ => rfl
@[simp] theorem settle_ph (s : State) : (settle s).ph = s.ph := settle_keeps (·.ph) s fun _ _ _ _ _ _ _ => rfl
@[simp] theorem settle_cnt (s : State) : (settle s).cnt = s.cnt := settle_keeps (·.cnt) s fun _ _ _ _ _ _ _ => rfl
@[simp] theorem settle_rdy (s : State) : (settle s).rdy = s.rdy := settle_keeps (·.rdy) s fun _ _ _ _ _ _ _ => rfl
@[simp] theorem settle_ng (s : State) : (settle s).ng = s.ng := settle_keeps (·.ng) s fun _ _ _ _ _ _ _ => rfl
@[simp] theorem settle_pending (s : State) : (settle s).pending = s.pending :=
  settle_keeps (·.pending) s fun _ _ _ _ _ _ _ => rfl

/-! ## The `STEP` handler -/

/-- No playback in progress: nothing (44_output_driver rule R198). -/
theorem stepHandler_free {s : State} (h : s.busy = false) : stepHandler s = .next s := by
  simp [stepHandler, h]

/-- A playback goes on (44_output_driver rules R193, R203). -/
theorem stepHandler_going {s : State} (h : s.busy = true) (hi : s.idx.toNat < 250) :
    stepHandler s =
      .next { s with port := s.W.read s.idx.toNat, idx := s.idx + 1#8, stepTimer := some 0 } := by
  have h250 : s.idx ≠ 250#8 := fun h' => by simp [h'] at hi
  have hs : inWaveSpace s.idx.toNat = true := by simp [inWaveSpace]; omega
  simp [stepHandler, h, hs, h250]

/-- A playback completes (44_output_driver rules R194, R203). -/
theorem stepHandler_last {s : State} (h : s.busy = true) (hi : s.idx = 250#8) :
    stepHandler s =
      .next { s with port := s.W.read 250, busy := false, rdy := false, stepTimer := none } := by
  simp [stepHandler, h, hi, inWaveSpace]

/-- An index of no location (20_memory rule R62). -/
theorem stepHandler_beyond {s : State} (h : s.busy = true) (hi : 250 < s.idx.toNat) :
    stepHandler s = .refused (.waveIndexBeyondTable s.idx) := by
  have hs : inWaveSpace s.idx.toNat = false := by simp [inWaveSpace]; omega
  simp [stepHandler, h, hs]

/-- Everything the `STEP` handler can do. -/
theorem stepHandler_cases (s : State) :
    (s.busy = false ∧ stepHandler s = .next s) ∨
    (s.busy = true ∧ s.idx.toNat < 250 ∧ stepHandler s =
      .next { s with port := s.W.read s.idx.toNat, idx := s.idx + 1#8, stepTimer := some 0 }) ∨
    (s.busy = true ∧ s.idx = 250#8 ∧ stepHandler s =
      .next { s with port := s.W.read 250, busy := false, rdy := false, stepTimer := none }) ∨
    (s.busy = true ∧ 250 < s.idx.toNat ∧ stepHandler s = .refused (.waveIndexBeyondTable s.idx)) := by
  cases h : s.busy with
  | false => simp [stepHandler_free h]
  | true =>
    rcases Nat.lt_trichotomy s.idx.toNat 250 with hi | hi | hi
    · simp [stepHandler_going h hi, hi, h]
    · have hi' : s.idx = 250#8 := BitVec.eq_of_toNat_eq (by simpa using hi)
      simp [stepHandler_last h hi', hi']
    · simp [stepHandler_beyond h hi, hi]

end Sys2Proof.Machine
end

