-- ==== Sys2Proof/Laws/Events.lean ====
section
/-! SUPPORT. What the handlers of `RX`, `TICK` and `RESET` do, case by case, and runs of events. -/

namespace Sys2Proof.Machine

/-! ## `RX(b)` (41_command_framer rules R121 to R123, R130) -/

theorem rxHandler_resetByte (s : State) : rxHandler 252#8 s = { s with ps := .awaitingChannel } := by
  simp [rxHandler]

theorem rxHandler_channel {s : State} {b : Byte} (hb : b ≠ 252#8) (h : s.ps = .awaitingChannel) :
    rxHandler b s = { s with pch := b, ps := .awaitingValue } := by
  simp [rxHandler, hb, h]

theorem rxHandler_value {s : State} {b : Byte} (hb : b ≠ 252#8) (h : s.ps = .awaitingValue) :
    rxHandler b s = { s.writeTarget s.pch b with ps := .awaitingChannel } := by
  simp [rxHandler, hb, h]

theorem rxHandler_illegal {s : State} {b : Byte} (hb : b ≠ 252#8) (h : s.ps ≠ .awaitingChannel)
    (h' : s.ps ≠ .awaitingValue) : rxHandler b s = { s with ng := true, ps := .awaitingChannel } := by
  cases hp : s.ps <;> simp_all [rxHandler, State.raiseDiag]

/-- Everything the `RX` handler writes is `T`, `ps`, `pch` and `ng` (41_command_framer rule R133). -/
theorem rxHandler_keeps {α : Type} (f : State → α) (b : Byte) (s : State)
    (hf : ∀ T ps pch ng, f { s with T := T, ps := ps, pch := pch, ng := ng } = f s) :
    f (rxHandler b s) = f s := by
  by_cases hb : b = 252#8
  · rw [hb, rxHandler_resetByte]; exact hf s.T _ s.pch s.ng
  · cases h : s.ps with
    | awaitingChannel => rw [rxHandler_channel hb h]; exact hf s.T _ b s.ng
    | awaitingValue =>
      rw [rxHandler_value hb h]
      by_cases hc : s.pch.toNat ≤ 8
      · rw [writeTarget_of_le s b hc]; exact hf _ _ s.pch s.ng
      · rw [writeTarget_of_gt s b (by omega)]; exact hf s.T _ s.pch s.ng
    | illegal2 => rw [rxHandler_illegal hb (by simp [h]) (by simp [h])]; exact hf s.T _ s.pch true
    | illegal3 => rw [rxHandler_illegal hb (by simp [h]) (by simp [h])]; exact hf s.T _ s.pch true

@[simp] theorem rxHandler_M (b : Byte) (s : State) : (rxHandler b s).M = s.M := rxHandler_keeps (·.M) b s fun _ _ _ _ => rfl
@[simp] theorem rxHandler_W (b : Byte) (s : State) : (rxHandler b s).W = s.W := rxHandler_keeps (·.W) b s fun _ _ _ _ => rfl
@[simp] theorem rxHandler_ph (b : Byte) (s : State) : (rxHandler b s).ph = s.ph := rxHandler_keeps (·.ph) b s fun _ _ _ _ => rfl
@[simp] theorem rxHandler_cnt (b : Byte) (s : State) : (rxHandler b s).cnt = s.cnt := rxHandler_keeps (·.cnt) b s fun _ _ _ _ => rfl
@[simp] theorem rxHandler_rdy (b : Byte) (s : State) : (rxHandler b s).rdy = s.rdy := rxHandler_keeps (·.rdy) b s fun _ _ _ _ => rfl
@[simp] theorem rxHandler_port (b : Byte) (s : State) : (rxHandler b s).port = s.port := rxHandler_keeps (·.port) b s fun _ _ _ _ => rfl
@[simp] theorem rxHandler_idx (b : Byte) (s : State) : (rxHandler b s).idx = s.idx := rxHandler_keeps (·.idx) b s fun _ _ _ _ => rfl
@[simp] theorem rxHandler_busy (b : Byte) (s : State) : (rxHandler b s).busy = s.busy := rxHandler_keeps (·.busy) b s fun _ _ _ _ => rfl
@[simp] theorem rxHandler_built (b : Byte) (s : State) : (rxHandler b s).built = s.built := rxHandler_keeps (·.built) b s fun _ _ _ _ => rfl
@[simp] theorem rxHandler_stepTimer (b : Byte) (s : State) : (rxHandler b s).stepTimer = s.stepTimer :=
  rxHandler_keeps (·.stepTimer) b s fun _ _ _ _ => rfl
@[simp] theorem rxHandler_pending (b : Byte) (s : State) : (rxHandler b s).pending = s.pending :=
  rxHandler_keeps (·.pending) b s fun _ _ _ _ => rfl

/-! ## `TICK` (42_phase_sequencer rules R151 to R154) -/

theorem tickHandler_strobe {s : State} (h : s.ph = .strobe) :
    tickHandler s = { s with ph := .playback, rdy := true } := by simp [tickHandler, h]

theorem tickHandler_playback {s : State} (h : s.ph = .playback) :
    tickHandler s = { s with ph := .idle, cnt := 0#8 } := by simp [tickHandler, h]

theorem tickHandler_idle_last {s : State} (h : s.ph = .idle) (hc : idleOver (s.cnt + 1#8) = true) :
    tickHandler s = { s with ph := .strobe, cnt := s.cnt + 1#8 } := by
  simp [tickHandler, h, hc]

theorem tickHandler_idle_counting {s : State} (h : s.ph = .idle) (hc : idleOver (s.cnt + 1#8) = false) :
    tickHandler s = { s with cnt := s.cnt + 1#8 } := by
  simp [tickHandler, h, hc]

theorem tickHandler_illegal {s : State} (h : s.ph = .illegal) :
    tickHandler s = { s with ng := true, ph := .idle } := by simp [tickHandler, h, State.raiseDiag]

/-- Everything the `TICK` handler writes is `ph`, `cnt`, `rdy` and `ng` (42_phase_sequencer rule R156). -/
theorem tickHandler_keeps {α : Type} (f : State → α) (s : State)
    (hf : ∀ ph cnt rdy ng, f { s with ph := ph, cnt := cnt, rdy := rdy, ng := ng } = f s) :
    f (tickHandler s) = f s := by
  cases h : s.ph with
  | strobe => rw [tickHandler_strobe h]; exact hf _ s.cnt true s.ng
  | playback => rw [tickHandler_playback h]; exact hf _ 0#8 s.rdy s.ng
  | illegal => rw [tickHandler_illegal h]; exact hf _ s.cnt s.rdy true
  | idle =>
    cases hc : idleOver (s.cnt + 1#8) with
    | true => rw [tickHandler_idle_last h hc]; exact hf _ _ s.rdy s.ng
    | false => rw [tickHandler_idle_counting h hc]; exact hf s.ph _ s.rdy s.ng

@[simp] theorem tickHandler_T (s : State) : (tickHandler s).T = s.T := tickHandler_keeps (·.T) s fun _ _ _ _ => rfl
@[simp] theorem tickHandler_M (s : State) : (tickHandler s).M = s.M := tickHandler_keeps (·.M) s fun _ _ _ _ => rfl
@[simp] theorem tickHandler_W (s : State) : (tickHandler s).W = s.W := tickHandler_keeps (·.W) s fun _ _ _ _ => rfl
@[simp] theorem tickHandler_ps (s : State) : (tickHandler s).ps = s.ps := tickHandler_keeps (·.ps) s fun _ _ _ _ => rfl
@[simp] theorem tickHandler_pch (s : State) : (tickHandler s).pch = s.pch := tickHandler_keeps (·.pch) s fun _ _ _ _ => rfl
@[simp] theorem tickHandler_port (s : State) : (tickHandler s).port = s.port := tickHandler_keeps (·.port) s fun _ _ _ _ => rfl
@[simp] theorem tickHandler_idx (s : State) : (tickHandler s).idx = s.idx := tickHandler_keeps (·.idx) s fun _ _ _ _ => rfl
@[simp] theorem tickHandler_busy (s : State) : (tickHandler s).busy = s.busy := tickHandler_keeps (·.busy) s fun _ _ _ _ => rfl
@[simp] theorem tickHandler_built (s : State) : (tickHandler s).built = s.built := tickHandler_keeps (·.built) s fun _ _ _ _ => rfl
@[simp] theorem tickHandler_stepTimer (s : State) : (tickHandler s).stepTimer = s.stepTimer :=
  tickHandler_keeps (·.stepTimer) s fun _ _ _ _ => rfl
@[simp] theorem tickHandler_pending (s : State) : (tickHandler s).pending = s.pending :=
  tickHandler_keeps (·.pending) s fun _ _ _ _ => rfl

/-! ## Outcomes and runs -/

@[simp] theorem andThen_next (s : State) (f : State → Host.Outcome State Fault Refusal) :
    andThen (.next s) f = f s := rfl

@[simp] theorem andThen_refused (r : Refusal) (f : State → Host.Outcome State Fault Refusal) :
    andThen (.refused r) f = .refused r := rfl

/-- A composition answers next only through a next state of its first part. -/
theorem andThen_eq_next {o : Host.Outcome State Fault Refusal} {f : State → Host.Outcome State Fault Refusal}
    {t : State} : andThen o f = .next t ↔ ∃ u, o = .next u ∧ f u = .next t := by
  cases o <;> simp [andThen]

@[simp] theorem runEvents_nil (s : State) : runEvents [] s = .next s := rfl

@[simp] theorem runEvents_cons (e : Event) (es : List Event) (s : State) :
    runEvents (e :: es) s = andThen (handle e s) (runEvents es) := rfl

theorem runEvents_append (es es' : List Event) (s : State) :
    runEvents (es ++ es') s = andThen (runEvents es s) (runEvents es') := by
  induction es generalizing s with
  | nil => rfl
  | cons e es ih =>
    simp only [List.cons_append, runEvents_cons]
    cases handle e s <;> simp [andThen, ih]

@[simp] theorem receive_eq (b : Byte) (s : State) : receive b s = settle (rxHandler b s) := rfl
@[simp] theorem tick_eq (s : State) : tick s = settle (tickHandler s) := rfl
@[simp] theorem handle_rx (b : Byte) (s : State) : handle (.rx b) s = .next (settle (rxHandler b s)) := rfl
@[simp] theorem handle_tick (s : State) : handle .tick s = .next (settle (tickHandler s)) := rfl
@[simp] theorem handle_step (s : State) : handle .step s = andThen (stepHandler s) fun t => .next (settle t) := rfl

/-- `RX` in a settled state is its handler alone (44_output_driver rule R199). -/
theorem settle_rxHandler {s : State} (h : settle s = s) (b : Byte) : settle (rxHandler b s) = rxHandler b s := by
  rw [settled_iff] at h ⊢
  simpa [SettledForm] using h

end Sys2Proof.Machine
end

