-- ==== Sys2Proof/Laws/PerInstr.lean ====
section
/-! SUPPORT. Statements about every command as syntax, one lemma per constructor (LAWS.json). -/

/-- A command is one byte long (format F1) or two (format F2); there is no other length (30_encoding rule R90). -/
def Sys2Proof.Laws.EncodedLength.Statement (i : Sys2Proof.Instr) : Prop :=
  (Sys2Proof.encode i).length = if i = .sync then 1 else 2

namespace Sys2Proof.Laws.EncodedLength

theorem sync : Statement .sync := by simp [Statement, encode]
theorem setw (ch : BitVec 3) (w : Byte) : Statement (.setw ch w) := by simp [Statement, encode]
theorem dis (ch : BitVec 3) : Statement (.dis ch) := by simp [Statement, encode]
theorem setx (ch : BitVec 3) (x : Byte) : Statement (.setx ch x) := by simp [Statement, encode]
theorem aux (v : Byte) : Statement (.aux v) := by simp [Statement, encode]
theorem skip (c v : Byte) : Statement (.skip c v) := by simp [Statement, encode]
theorem abort (c : Byte) : Statement (.abort c) := by simp [Statement, encode]
theorem auxon : Statement .auxon := by simp [Statement, encode]
theorem auxoff : Statement .auxoff := by simp [Statement, encode]

end Sys2Proof.Laws.EncodedLength
end

