-- ==== Sys2Proof/Tests/Slice0.lean ====
section
/-! SUPPORT. Tests of one event or one command each, with expected values from the spec's own examples and
vectors (95_test_vectors) or worked out by hand from its tables, and a witness for the hypotheses of every obligation. -/

namespace Sys2Proof.Tests

open Sys2Proof.Machine

/-! ## Helpers -/

/-- The outcome is a next state of which `f` holds. -/
def after (o : Host.Outcome State Fault Refusal) (f : State → Bool) : Bool :=
  match o with
  | .next t => f t
  | .fault _ => false
  | .refused _ => false

/-- Targets of 95_test_vectors V-BLD-10 with the auxiliary byte clear. -/
def targets : Vector Byte 9 := #v[2#8, 0#8, 250#8, 251#8, 255#8, 251#8, 251#8, 251#8, 0#8]

/-- Driver vectors' tables (95_test_vectors 2.4): `M = 0x07` and `W` as in V-BLD-10, at the last tick of Idle. -/
def idling : State :=
  { State.resetValues with
    T := targets, M := 0x07#8, W := waveOf (snapshot targets), cnt := 16#8 }

/-- The same in Strobe. -/
def strobing : State := { idling with ph := .strobe, cnt := 17#8, port := 0x07#8 }

/-- The same in Playback with entry `k` on the port. -/
def playing (k : Byte) (shown : Byte) : State :=
  { idling with
    ph := .playback, cnt := 17#8, rdy := true, busy := true, idx := k + 1#8, port := shown, stepTimer := some 0 }

/-- The same after the playback. -/
def played : State := { idling with ph := .playback, cnt := 17#8, idx := 250#8 }

/-- Waiting for a value byte for channel byte `c`. -/
def expecting (c : Byte) : State := { State.reset with ps := .awaitingValue, pch := c }

/-- An illegal Protocol State (95_test_vectors V-EXC-1, V-EXC-2). -/
def lost (p : ProtocolState) : State := { State.reset with ps := p, pch := 7#8 }

/-- A playback whose index has left the table. -/
def beyond : State := { playing 1#8 0x05#8 with idx := 251#8 }

/-! ## Well-formedness: every check refuses an ill-formed command -/

theorem test_wf_setw_width : Instr.wf (.setw 0#3 250#8) = true ∧ Instr.wf (.setw 0#3 251#8) = false := by decide
theorem test_wf_setx_value : Instr.wf (.setx 0#3 253#8) = true ∧ Instr.wf (.setx 0#3 252#8) = false := by decide
theorem test_wf_setx_width : Instr.wf (.setx 7#3 250#8) = false := by decide
theorem test_wf_aux_value : Instr.wf (.aux 255#8) = true ∧ Instr.wf (.aux 252#8) = false := by decide
theorem test_wf_skip_valid_channel : Instr.wf (.skip 9#8 0#8) = true ∧ Instr.wf (.skip 8#8 0#8) = false := by decide
theorem test_wf_skip_channel_reset : Instr.wf (.skip 252#8 0#8) = false := by decide
theorem test_wf_skip_value_reset : Instr.wf (.skip 9#8 252#8) = false := by decide
theorem test_wf_abort_reset : Instr.wf (.abort 0#8) = true ∧ Instr.wf (.abort 252#8) = false := by decide

/-! ## Decoding: words written out from opcode_table.json, first byte in bits 15:8 -/

theorem test_decode_sync : decodeTableWord 8 0b11111100 = some .sync := by decide
theorem test_decode_setw : decodeTableWord 16 0b0000010111001000 = some (.setw 5#3 200#8) := by decide
theorem test_decode_setw_longest : decodeTableWord 16 0b0000011111111010 = some (.setw 7#3 250#8) := by decide
theorem test_decode_dis : decodeTableWord 16 0b0000001111111011 = some (.dis 3#3) := by decide
theorem test_decode_setx : decodeTableWord 16 0b0000001011111101 = some (.setx 2#3 253#8) := by decide
theorem test_decode_aux : decodeTableWord 16 0b0000100011111011 = some (.aux 251#8) := by decide
theorem test_decode_skip : decodeTableWord 16 0b1100100001001101 = some (.skip 200#8 77#8) := by decide
theorem test_decode_skip_top : decodeTableWord 16 0b1111111111111111 = some (.skip 255#8 255#8) := by decide
theorem test_decode_abort : decodeTableWord 16 0b0000010111111100 = some (.abort 5#8) := by decide
theorem test_decode_auxon : decodeTableWord 16 0b0000100000000001 = some (.aux 1#8) := by decide
theorem test_decode_auxoff : decodeTableWord 16 0b0000100000000000 = some (.aux 0#8) := by decide
theorem test_decode_rejects_nothing : decode [] = .rejected .noByte := by decide
theorem test_decode_rejects_half : decode [5#8] = .rejected (.channelByteAlone 5#8) := by decide
/-- P2 (b): the misframed stream `64 01 32`. -/
theorem test_decode_misframed : decodeStream [0x64#8, 0x01#8, 0x32#8] = ([.skip 100#8 1#8], some 50#8) := by decide

/-! ## Commands (95_test_vectors 2.1) -/

/-- V-FRM-1. -/
theorem test_setw_lowest_channel : after (exec (.setw 0#3 125#8) State.reset) (fun t =>
    decide (t.T = #v[125#8, 251#8, 251#8, 251#8, 251#8, 251#8, 251#8, 251#8, 0#8] ∧ t.pch = 0#8)) = true := by decide
/-- V-FRM-3. -/
theorem test_setw_highest : after (exec (.setw 7#3 250#8) State.reset) (fun t =>
    decide (t.T = #v[251#8, 251#8, 251#8, 251#8, 251#8, 251#8, 251#8, 250#8, 0#8] ∧ t.pch = 7#8)) = true := by decide
/-- V-BLD-2: the command that reaches it. -/
theorem test_dis : after (exec (.dis 3#3) { State.reset with T := State.reset.T.set 3 100#8 }) (fun t =>
    decide (t.T = State.reset.T ∧ t.pch = 3#8)) = true := by decide
/-- V-FRM-6. -/
theorem test_setx : after (exec (.setx 2#3 255#8) State.reset) (fun t =>
    decide (t.T = #v[251#8, 251#8, 255#8, 251#8, 251#8, 251#8, 251#8, 251#8, 0#8] ∧ t.ng = false)) = true := by decide
/-- V-FRM-8. -/
theorem test_aux_even : after (exec (.aux 254#8) State.reset) (fun t =>
    decide (t.T[8] = 254#8 ∧ t.outputs = { port := 0x00#8, aux := false, dbgNg := false })) = true := by decide
/-- V-FRM-9. -/
theorem test_aux_odd : after (exec (.aux 255#8) State.reset) (fun t =>
    decide (t.T[8] = 255#8 ∧ t.aux = true)) = true := by decide
/-- V-FRM-7. -/
theorem test_auxon : after (exec .auxon State.reset) (fun t => decide (t.T[8] = 1#8 ∧ t.aux = true)) = true := by decide
/-- From the state V-DRV-11 leaves: `aux` is 1 in the middle of a playback. -/
theorem test_auxoff : after (exec .auxoff { playing 2#8 0x04#8 with T := targets.set 8 1#8 }) (fun t =>
    decide (t.T[8] = 0#8 ∧ t.aux = false ∧ t.port = 0x04#8)) = true := by decide
/-- V-FRM-11: no wrap to index 0 or 1. -/
theorem test_skip : after (exec (.skip 9#8 7#8) State.reset) (fun t =>
    decide (t.T = State.reset.T ∧ t.pch = 9#8 ∧ t.ps = .awaitingChannel)) = true := by decide
/-- V-FRM-13. -/
theorem test_abort : after (exec (.abort 5#8) State.reset) (fun t =>
    decide (t.T = State.reset.T ∧ t.pch = 5#8 ∧ t.ps = .awaitingChannel)) = true := by decide
/-- V-EXC-3: the reset-byte test comes before the state dispatch. -/
theorem test_sync_repairs_silently : after (exec .sync (lost .illegal3)) (fun t =>
    decide (t.ps = .awaitingChannel ∧ t.ng = false)) = true := by decide
/-- V-RST-4: `SYNC` is not a reset. -/
theorem test_sync_in_playback : exec .sync { playing 2#8 0x04#8 with ps := .awaitingValue } = .next (playing 2#8 0x04#8) := rfl

/-! ## The framer, byte by byte -/

/-- V-FRM-21: the value 6 is data here, not a channel. -/
theorem test_value_byte : after (handle (.rx 6#8) (expecting 6#8)) (fun t =>
    decide (t.T[6] = 6#8 ∧ t.ps = .awaitingChannel ∧ t.pch = 6#8)) = true := by decide
/-- V-EXC-2. -/
theorem test_illegal_protocol_state : after (handle (.rx 9#8) (lost .illegal3)) (fun t =>
    decide (t.ng = true ∧ t.ps = .awaitingChannel ∧ t.pch = 7#8 ∧ t.T = State.reset.T)) = true := by decide

/-! ## The phase sequencer (95_test_vectors 2.2) -/

/-- V-SEQ-6: 16 does not exceed 16. -/
theorem test_idle_counts : after (handle .tick { State.reset with cnt := 15#8 }) (fun t =>
    decide (t.ph = .idle ∧ t.cnt = 16#8)) = true := by decide
/-- V-SEQ-9: the counter wraps and the build is triggered. -/
theorem test_counter_wraps : after (handle .tick { idling with cnt := 255#8, M := 0x00#8, W := [] }) (fun t =>
    decide (t.ph = .idle ∧ t.cnt = 0#8 ∧ t.built = true ∧ t.M = 0x07#8)) = true := by decide
/-- V-SEQ-10. -/
theorem test_illegal_phase : after (handle .tick { State.reset with ph := .illegal, cnt := 5#8, port := 0x07#8 }) (fun t =>
    decide (t.ph = .idle ∧ t.cnt = 5#8 ∧ t.ng = true ∧ t.port = 0x00#8 ∧ t.built = false)) = true := by decide
/-- V-SEQ-12. -/
theorem test_tick_while_playing : after (handle .tick (playing 2#8 0x04#8)) (fun t =>
    decide (t.ph = .idle ∧ t.cnt = 0#8 ∧ t.rdy = true ∧ t.built = false ∧ t.port = 0x04#8)) = true := by decide

/-! ## The table builder (95_test_vectors 2.3) -/

/-- V-BLD-4. -/
theorem test_build :
    let s := build { State.reset with T := #v[125#8, 251#8, 0#8, 250#8, 255#8, 1#8, 251#8, 251#8, 0#8] }
    s.M = 0x2D#8 ∧ s.W.read 0 = 0x29#8 ∧ s.W.read 1 = 0x09#8 ∧ s.W.read 124 = 0x09#8 ∧ s.W.read 125 = 0x08#8 ∧
      s.W.read 249 = 0x08#8 ∧ s.W.read 250 = 0x00#8 := by decide +kernel
/-- V-BLD-9: values above 250. -/
theorem test_build_above_250 :
    let s := build { State.reset with T := #v[251#8, 252#8, 253#8, 254#8, 255#8, 250#8, 0#8, 1#8, 0#8] }
    s.M = 0xE0#8 ∧ s.W.read 0 = 0xA0#8 ∧ s.W.read 1 = 0x20#8 ∧ s.W.read 249 = 0x20#8 ∧ s.W.read 250 = 0x00#8 := by decide +kernel
/-- V-BLD-12: one build per cycle. -/
theorem test_no_second_build : after (handle (.rx 9#8) { expecting 0#8 with T := targets }) (fun t =>
    decide (t.T[0] = 9#8 ∧ t.M = 0x00#8 ∧ t.W = [] ∧ t.built = true)) = true := by decide +kernel

/-! ## The output driver (95_test_vectors 2.4) -/

/-- V-DRV-1. -/
theorem test_strobe : after (handle .tick idling) (fun t =>
    decide (t.ph = .strobe ∧ t.cnt = 17#8 ∧ t.port = 0x07#8)) = true := by decide +kernel
/-- V-DRV-2. -/
theorem test_playback_starts : after (handle .tick strobing) (fun t =>
    decide (t.rdy = true ∧ t.port = 0x05#8 ∧ t.idx = 1#8 ∧ t.busy = true ∧ t.stepTimer = some 0)) = true := by decide +kernel
/-- V-DRV-4. -/
theorem test_step : after (handle .step (playing 1#8 0x05#8)) (fun t =>
    decide (t.port = 0x04#8 ∧ t.idx = 3#8)) = true := by decide +kernel
/-- V-DRV-5. -/
theorem test_last_step : after (handle .step (playing 249#8 0x04#8)) (fun t =>
    decide (t.port = 0x00#8 ∧ t.busy = false ∧ t.rdy = false ∧ t.idx = 250#8 ∧ t.ph = .playback)) = true := by decide +kernel
/-- V-DRV-6, order B. -/
theorem test_last_step_after_tick :
    after (handle .step { playing 249#8 0x04#8 with ph := .idle, cnt := 0#8 }) (fun t =>
      decide (t.built = true ∧ t.busy = false ∧ t.rdy = false ∧ t.port = 0x00#8 ∧ t.M = 0x07#8)) = true := by decide +kernel
/-- V-DRV-12. -/
theorem test_illegal_phase_holds_port :
    after (handle .step { State.reset with ph := .illegal, port := 0x07#8 }) (fun t =>
      decide (t.built = false ∧ t.port = 0x07#8 ∧ t.ng = false)) = true := by decide +kernel
/-- 20_memory rule R62: the read is of no location. -/
theorem test_index_beyond_table : handle .step beyond = .refused (.waveIndexBeyondTable 251#8) := rfl

/-! ## Clock cycles and reset (95_test_vectors 2.3, 2.6) -/

/-- V-BLD-16: `RX(9)` and `TICK` in one clock cycle. -/
theorem test_byte_before_tick :
    after (clockCycle { rst := false, rxValid := true, rxData := 9#8, tick := true }
      { expecting 0#8 with ph := .playback, cnt := 17#8, built := false, T := State.reset.T.set 0 5#8 }) (fun t =>
      decide (t.M = 0x01#8 ∧ t.W.read 8 = 0x01#8 ∧ t.W.read 9 = 0x00#8)) = true := by decide +kernel
/-- V-RST-3. -/
theorem test_reset_overrides :
    after (clockCycle { rst := true, rxValid := true, rxData := 0#8, tick := true } (playing 2#8 0x04#8)) (fun t =>
      decide (t = State.reset)) = true := by decide +kernel
/-- The host's interface starts from the state the spec states. -/
theorem test_core_reset : core.reset = State.reset := rfl
/-- The memory of the reset state is canonical. -/
theorem test_reset_memory_wf : State.reset.W.wf = true ∧ State.reset.W.inSpace = true := by decide
/-- A frame of two commands is taken one command a step (log 2). -/
theorem test_step_takes_one_command :
    step { State.reset with pending := [.frame [0#8, 125#8, 8#8, 1#8]] } =
      .next { State.reset with T := State.reset.T.set 0 125#8, pending := [.frame [8#8, 1#8]] } := rfl

/-! ## Witnesses: states and operands that meet the hypotheses of each obligation, clause by clause -/

theorem completes {o : Host.Outcome State Fault Refusal} (h : after o (fun _ => true) = true) : ∃ t, o = .next t := by
  cases o with
  | next t => exact ⟨t, rfl⟩
  | fault r => simp [after] at h
  | refused r => simp [after] at h

theorem settled_reset : Settled State.reset := rfl
theorem settled_expecting (c : Byte) : Settled (expecting c) := rfl
theorem settled_lost (p : ProtocolState) : Settled (lost p) := rfl
theorem settled_strobing : Settled strobing := rfl
theorem settled_playing (k b : Byte) : Settled (playing k b) := rfl
theorem settled_played : Settled played := rfl

theorem tablesFrom_targets : TablesFrom idling (snapshot targets) := ⟨rfl, rfl⟩

/-- A state inside a playback meets the invariant. -/
theorem blockInv_playing {k b : Byte} (q : List Stimulus) (hi : 1#8 ≤ k + 1#8 ∧ k + 1#8 ≤ 250#8)
    (hb : b = (waveOf (snapshot targets)).read ((k + 1#8).toNat - 1)) : BlockInv { playing k b with pending := q } where
  psLegal := .inl rfl
  phLegal := nofun
  cntInIdle := nofun
  cntOutsideIdle := fun _ => rfl
  idxInTable := hi.2
  idxStarted := fun _ => hi.1
  timerRuns := rfl
  rdyIsBusy := rfl
  busyLatch := fun _ => rfl
  tables := ⟨snapshot targets, rfl, rfl⟩
  portPlaying := fun _ => hb
  portPlayed := nofun
  pchData := show (0#8 : Byte) ≠ 252#8 by decide
  targetData := show ∀ i : Fin 9, targets[i.val] ≠ 252#8 by decide
  noAnomaly := rfl
  settled := rfl

/-- A state after a playback, before the tick that ends the phase, meets the invariant. -/
theorem blockInv_played : BlockInv played where
  psLegal := .inl rfl
  phLegal := by decide
  cntInIdle := by decide
  cntOutsideIdle := fun _ => rfl
  idxInTable := by decide
  idxStarted := by decide
  timerRuns := rfl
  rdyIsBusy := rfl
  busyLatch := by decide
  tables := ⟨snapshot targets, rfl, rfl⟩
  portPlaying := by decide
  portPlayed := fun _ _ => rfl
  pchData := by decide
  targetData := by decide
  noAnomaly := rfl
  settled := rfl

theorem test_witness_EveryStepKeepsInvariant :
    BlockInv { playing 1#8 0x05#8 with pending := [.event .step, .frame [8#8, 1#8]] } ∧
      ∃ t, step { playing 1#8 0x05#8 with pending := [.event .step, .frame [8#8, 1#8]] } = .next t :=
  ⟨blockInv_playing _ (by decide) (by decide +kernel), completes (by decide +kernel)⟩

theorem test_witness_NoStepStopsInReachableStates : BlockInv { playing 1#8 0x05#8 with pending := [.event .tick] } :=
  blockInv_playing _ (by decide) (by decide +kernel)

theorem test_witness_EventStopsExactlyBeyondTheTable :
    (beyond.busy = true ∧ 250#8 < beyond.idx) ∧
      ¬ ((playing 249#8 0x04#8).busy = true ∧ 250#8 < (playing 249#8 0x04#8).idx) := by decide

theorem test_witness_DecodeOfEncodeIsTheCommand :
    ∀ i ∈ [Instr.sync, .setw 0#3 0#8, .setw 7#3 250#8, .dis 0#3, .dis 7#3, .setx 0#3 253#8, .setx 7#3 255#8, .aux 0#8,
      .aux 255#8, .skip 9#8 0#8, .skip 255#8 255#8, .abort 0#8, .abort 255#8, .auxon, .auxoff], i.wf = true := by decide

theorem test_witness_EveryPairMatchesExactlyItsRow :
    (0#8 ≠ 252#8 ∧ F2Row.setw.hits 0#8 250#8 = true) ∧ (7#8 ≠ 252#8 ∧ F2Row.dis.hits 7#8 251#8 = true) ∧
      (7#8 ≠ 252#8 ∧ F2Row.setx.hits 7#8 253#8 = true) ∧ (8#8 ≠ 252#8 ∧ F2Row.aux.hits 8#8 251#8 = true) ∧
      (9#8 ≠ 252#8 ∧ F2Row.skip.hits 9#8 253#8 = true) ∧ (253#8 ≠ 252#8 ∧ F2Row.abort.hits 253#8 252#8 = true) := by
  decide

theorem test_witness_StreamDecodingIsUnique :
    ∀ i ∈ [Instr.sync, .setw 7#3 250#8, .abort 251#8, .auxon], i.wf = true := by decide

theorem test_witness_FramerRunsTheDecodedCommands :
    (Settled State.reset ∧ State.reset.ps = .awaitingChannel) ∧
      (Settled (expecting 3#8) ∧ (expecting 3#8).ps = .awaitingValue ∧ (expecting 3#8).pch ≠ 252#8) :=
  ⟨⟨settled_reset, rfl⟩, settled_expecting _, rfl, by decide⟩

theorem test_witness_StepRunsTheDecodedCommand :
    ({ State.reset with pending := [.frame [252#8]] } : State).pending = .frame [252#8] :: [] ∧
      decode [252#8] = .command .sync [] ∧
      ({ State.reset with pending := [.frame [0#8, 9#8, 8#8]] } : State).pending = .frame [0#8, 9#8, 8#8] :: [] ∧
      decode [0#8, 9#8, 8#8] = .command (.setw 0#3 9#8) [8#8] := by decide

theorem test_witness_StepTakesTheNextStimulus :
    (∀ x ∈ [Stimulus.event .tick, .cycle ⟨false, true, 8#8, true⟩, .frame [253#8], .frame []],
      ({ State.reset with pending := [x] } : State).pending = x :: []) ∧ 253#8 ≠ 252#8 ∧ State.reset.pending = [] := by
  decide

theorem test_witness_PlacedWordIsRunNext :
    decode (tableBytes 8 0xFC) = .command .sync [] ∧ decode (tableBytes 16 0x03FB) = .command (.dis 3#3) [] ∧
      decode (tableBytes 16 0xFC05) = .command .sync [5#8] ∧ decode (tableBytes 8 0x08) = .command (.aux 0#8) [] := by
  decide

theorem test_witness_SyncResetsOnlyTheFramer : Settled (lost .illegal3) ∧ Settled (expecting 8#8) :=
  ⟨settled_lost _, settled_expecting _⟩

theorem test_witness_ChannelByteIsStored :
    Settled State.reset ∧ State.reset.ps = .awaitingChannel ∧ 251#8 ≠ 252#8 ∧ 253#8 ≠ 252#8 :=
  ⟨settled_reset, rfl, by decide, by decide⟩

theorem test_witness_ValueByteWritesItsEntry :
    (∀ c ∈ [0#8, 8#8, 9#8, 255#8], Settled (expecting c) ∧ (expecting c).ps = .awaitingValue) ∧ 253#8 ≠ 252#8 ∧
      (expecting 0#8).pch.toNat ≤ 8 ∧ (expecting 8#8).pch.toNat ≤ 8 ∧ 8 < (expecting 9#8).pch.toNat ∧
      8 < (expecting 255#8).pch.toNat ∧ ∃ t, handle (.rx 253#8) (expecting 8#8) = .next t :=
  ⟨fun c _ => ⟨settled_expecting c, rfl⟩, by decide, by decide, by decide, by decide, by decide, _, rfl⟩

theorem test_witness_IllegalProtocolStateIsRepaired :
    (Settled (lost .illegal2) ∧ (lost .illegal2).ps = .illegal2) ∧ (Settled (lost .illegal3) ∧ (lost .illegal3).ps = .illegal3) ∧
      5#8 ≠ 252#8 := ⟨⟨settled_lost _, rfl⟩, ⟨settled_lost _, rfl⟩, by decide⟩

theorem test_witness_ReceiveTouchesOnlyTheFramer :
    Settled (expecting 8#8) ∧ (∃ t, handle (.rx 1#8) (expecting 8#8) = .next t) ∧
      (∃ j : Fin 9, ¬ ((expecting 8#8).ps = .awaitingValue ∧ 1#8 ≠ 252#8 ∧ (expecting 8#8).pch.toNat = j.val)) ∧
      ({ strobing with ps := .awaitingValue, pch := 8#8 } : State).ps = ({ idling with ps := .awaitingValue, pch := 8#8 } : State).ps ∧
      strobing.T = idling.T ∧ strobing.ng = idling.ng := ⟨settled_expecting _, ⟨_, rfl⟩, ⟨0, by decide⟩, rfl, rfl, rfl⟩

/-- Every command statement starts from a settled state at a command boundary, of any phase. -/
theorem test_witness_command_boundary :
    (Settled State.reset ∧ State.reset.ps = .awaitingChannel) ∧ (Settled strobing ∧ strobing.ps = .awaitingChannel) ∧
      (Settled (playing 1#8 0x05#8) ∧ (playing 1#8 0x05#8).ps = .awaitingChannel) :=
  ⟨⟨settled_reset, rfl⟩, ⟨settled_strobing, rfl⟩, settled_playing _ _, rfl⟩

theorem test_witness_SetwWritesTheWidth :
    Settled State.reset ∧ State.reset.ps = .awaitingChannel ∧ 0#8 ≤ 250#8 ∧ 250#8 ≤ 250#8 :=
  ⟨settled_reset, rfl, by decide, by decide⟩

theorem test_witness_DisDisablesTheChannel : Settled strobing ∧ strobing.ps = .awaitingChannel := ⟨settled_strobing, rfl⟩

theorem test_witness_SetxStoresTheValueAsReceived :
    Settled State.reset ∧ State.reset.ps = .awaitingChannel ∧ 253#8 ≤ 253#8 ∧ 253#8 ≤ 255#8 :=
  ⟨settled_reset, rfl, by decide, by decide⟩

theorem test_witness_AuxDrivesTheLineAtOnce :
    Settled (playing 1#8 0x05#8) ∧ (playing 1#8 0x05#8).ps = .awaitingChannel ∧ 251#8 ≠ 252#8 ∧ 253#8 ≠ 252#8 :=
  ⟨settled_playing _ _, rfl, by decide, by decide⟩

theorem test_witness_AuxonAndAuxoffSetTheLine : Settled strobing ∧ strobing.ps = .awaitingChannel := ⟨settled_strobing, rfl⟩

theorem test_witness_SkipDropsThePair :
    Settled State.reset ∧ State.reset.ps = .awaitingChannel ∧ (8#8 < 9#8 ∧ 9#8 ≠ 252#8) ∧ (8#8 < 255#8 ∧ 255#8 ≠ 252#8) ∧
      251#8 ≠ 252#8 := ⟨settled_reset, rfl, by decide, by decide, by decide⟩

theorem test_witness_AbortAbandonsThePair :
    Settled State.reset ∧ State.reset.ps = .awaitingChannel ∧ 0#8 ≠ 252#8 ∧ 253#8 ≠ 252#8 ∧ 8#8 ≠ 252#8 :=
  ⟨settled_reset, rfl, by decide, by decide, by decide⟩

theorem test_witness_CommandFrame :
    Settled strobing ∧ strobing.ps = .awaitingChannel ∧
      (∀ i ∈ [Instr.sync, .setw 7#3 250#8, .dis 0#3, .setx 2#3 253#8, .aux 255#8, .skip 9#8 0#8, .abort 3#8, .auxon, .auxoff],
        i.wf = true ∧ ∃ t, exec i strobing = .next t) ∧
      encode .sync = [252#8] ∧ encode (.abort 3#8) = [3#8, 252#8] := by
  refine ⟨settled_strobing, rfl, ?_, rfl, rfl⟩
  intro i hi
  simp only [List.mem_cons, List.not_mem_nil, or_false] at hi
  rcases hi with h | h | h | h | h | h | h | h | h <;> rw [h] <;> exact ⟨by decide, _, rfl⟩

theorem test_witness_CommandOffBoundaryIsMisframed :
    (Settled (expecting 8#8) ∧ (expecting 8#8).ps = .awaitingValue) ∧ (Settled (lost .illegal2) ∧ (lost .illegal2).ps = .illegal2) ∧
      encode (.setw 0#3 3#8) = [0#8, 3#8] ∧ 0#8 ≠ 252#8 ∧ 3#8 ≠ 252#8 :=
  ⟨⟨settled_expecting _, rfl⟩, ⟨settled_lost _, rfl⟩, rfl, by decide, by decide⟩

theorem test_witness_TickMovesThePhase :
    (strobing.ph = .strobe ∧ strobing.busy = false) ∧
      (({ playing 1#8 0x05#8 with ph := .strobe } : State).ph = .strobe ∧ (playing 1#8 0x05#8).busy = true) ∧
      (played.ph = .playback ∧ played.busy = false ∧ played.built = false) ∧ idling.ph = .idle ∧
      ({ State.reset with ph := .illegal } : State).ph = .illegal := by decide

theorem test_witness_TickNeverTouchesTheCommands :
    (∃ t, handle .tick strobing = .next t) ∧ strobing.ph = ({ strobing with T := State.reset.T } : State).ph :=
  ⟨⟨_, rfl⟩, rfl⟩

theorem test_witness_CycleIsNineteenTicks :
    strobing.ph = .strobe ∧ Event.reset ∉ Event.rx 8#8 :: List.replicate 19 .tick ∧
      (Event.rx 8#8 :: List.replicate 19 .tick).count .tick = 19 ∧
      ∃ t, runEvents (.rx 8#8 :: List.replicate 19 .tick) strobing = .next t :=
  ⟨rfl, by decide, by decide, completes (by decide +kernel)⟩

theorem test_witness_FirstCycleAfterReset :
    (Event.reset ∉ List.replicate 17 Event.tick ∧ (List.replicate 17 Event.tick).count .tick = 17 ∧
      ∃ t, runEvents (List.replicate 17 .tick) { State.reset with pending := [] } = .next t) ∧
    ((List.replicate 19 Event.tick).count .tick ≤ 19 ∧
      ∃ t, runEvents (List.replicate 19 .tick) { State.reset with pending := [] } = .next t) :=
  ⟨⟨by decide, by decide, completes (by decide +kernel)⟩, by decide, completes (by decide +kernel)⟩

theorem test_witness_BuildComputesMaskAndWaveform : 250#8 < idling.T[3] ∧ idling.T[2] ≤ 250#8 := by decide

theorem test_witness_ShapeOfEveryBuiltTable :
    TablesFrom idling (snapshot targets) ∧ (snapshot targets)[2] ≤ 250#8 ∧ idling.M.getLsbD 3 = false :=
  ⟨tablesFrom_targets, by decide, by decide⟩

theorem test_witness_BuildDependsOnlyOnTheTargets :
    ∀ i : Fin 8, ({ idling with T := targets.set 8 1#8 } : State).T[i.val] = idling.T[i.val] := by decide

theorem test_witness_WriteOrderIsNotObservable :
    Memory.wf [(0, 0x05#8), (250, 0x80#8)] = true ∧ Memory.inSpace [(0, 0x05#8), (250, 0x80#8)] = true ∧
      (List.range 251).reverse.Perm (List.range 251) := ⟨by decide, by decide, List.reverse_perm _⟩

theorem test_witness_TablesChangeOnlyByABuild :
    (∃ t, handle .step (playing 1#8 0x05#8) = .next t) ∧ ∃ t, handle .tick { played with T := State.reset.T } = .next t :=
  ⟨completes (by decide +kernel), completes (by decide +kernel)⟩

theorem test_witness_BuildRunsOncePerCycle :
    State.reset.busy = false ∧ State.reset.ph = .idle ∧ State.reset.cnt = 0#8 ∧ State.reset.built = true ∧
      (∀ e ∈ [Event.rx 0#8, .rx 9#8, .step], e = .step ∨ ∃ b, e = .rx b) ∧
      ∃ t, runEvents [.rx 0#8, .rx 9#8, .step] State.reset = .next t :=
  ⟨rfl, rfl, rfl, rfl, by simp, completes (by decide +kernel)⟩

theorem test_witness_MissedBuildKeepsTables :
    ({ playing 249#8 0x04#8 with ph := .idle, cnt := 0#8 } : State).busy = true ∧ Event.reset ∉ Event.step :: List.replicate 17 .tick ∧
      (Event.step :: List.replicate 17 .tick).count .tick ≤ 17 ∧
      ∃ u, handle .tick { playing 249#8 0x04#8 with ph := .idle, cnt := 0#8 } = .next u ∧
        ∃ t, runEvents (.step :: List.replicate 17 .tick) u = .next t :=
  ⟨rfl, by decide, by decide, _, rfl, completes (by decide +kernel)⟩

theorem test_witness_WellTimedRunBuildsEveryCycle :
    BlockInv (playing 249#8 0x04#8) ∧ (playing 249#8 0x04#8).ph = .playback ∧ Event.reset ∉ [Event.rx 8#8] ∧
      [Event.rx 8#8].count .tick = 0 ∧ Event.reset ∉ [Event.step] ∧ [Event.step].count .tick = 0 ∧
      wellTimed ([.rx 8#8] ++ [.tick] ++ [.step] ++ [.tick]) (playing 249#8 0x04#8) = true ∧
      ∃ t, runEvents ([.rx 8#8] ++ [.tick] ++ [.step]) (playing 249#8 0x04#8) = .next t :=
  ⟨blockInv_playing [] (by decide) (by decide +kernel), rfl, by decide, by decide, by decide, by decide, by decide +kernel, completes (by decide +kernel)⟩

theorem test_witness_LastAcceptedValueIsBuilt :
    Settled State.reset ∧ State.reset.ps = .awaitingChannel ∧
      (∀ i ∈ [Instr.setw 0#3 10#8, .dis 7#3, .abort 0#8, .setw 0#3 250#8], i.wf = true) ∧
      lastValue [.setw 0#3 10#8, .dis 7#3, .abort 0#8, .setw 0#3 250#8] 0#3 = some 250#8 ∧
      lastValue [.setw 0#3 10#8, .dis 7#3, .abort 0#8, .setw 0#3 250#8] 7#3 = some 251#8 ∧
      lastValue [.setw 0#3 10#8, .dis 7#3, .abort 0#8, .setw 0#3 250#8] 1#3 = none :=
  ⟨settled_reset, rfl, by decide, by decide, by decide, by decide⟩

theorem test_witness_SettleActsOnThePhase :
    (playing 1#8 0x05#8).busy = true ∧ (strobing.busy = false ∧ strobing.ph = .strobe) ∧
      (played.busy = false ∧ ({ played with rdy := true } : State).ph = .playback ∧ ({ played with rdy := true } : State).rdy = true) ∧
      played.rdy = false ∧ (State.resetValues.ph = .idle ∧ State.resetValues.cnt = 0#8 ∧ State.resetValues.built = false) ∧
      State.reset.built = true ∧ idling.cnt ≠ 0#8 ∧ ({ strobing with ph := .illegal } : State).ph = .illegal := by decide

theorem test_witness_SettleIsIdempotent : ∃ t, handle (.rx 1#8) (settle State.resetValues) = .next t := ⟨_, rfl⟩

theorem test_witness_StepPlaysTheNextEntry :
    ((playing 248#8 0x04#8).busy = true ∧ (playing 248#8 0x04#8).idx < 250#8) ∧ (playing 249#8 0x04#8).idx = 250#8 ∧
      played.busy = false := by decide

theorem test_witness_StepFrame :
    (playing 1#8 0x05#8).busy = true ∧ (playing 1#8 0x05#8).idx ≠ 250#8 ∧ ∃ t, handle .step (playing 1#8 0x05#8) = .next t :=
  ⟨rfl, by decide, completes (by decide +kernel)⟩

theorem test_witness_PlaybackIsNeverDisturbed :
    (playing 0#8 0x05#8).busy = true ∧ (playing 0#8 0x05#8).idx = 1#8 ∧
      (playing 0#8 0x05#8).port = (playing 0#8 0x05#8).W.read 0 ∧ Event.reset ∉ Event.rx 0#8 :: .tick :: List.replicate 249 .step ∧
      (Event.rx 0#8 :: .tick :: List.replicate 249 .step).count .step = 249 ∧
      ∃ t, runEvents (.rx 0#8 :: .tick :: List.replicate 249 .step) (playing 0#8 0x05#8) = .next t :=
  ⟨rfl, rfl, by decide +kernel, by decide +kernel, by decide +kernel, completes (by decide +kernel)⟩

theorem test_witness_PulseOfAChannel :
    TablesFrom idling (snapshot targets) ∧ idling.ph = .idle ∧ idling.cnt = 16#8 ∧ idling.busy = false ∧ idling.rdy = false ∧
      (∀ e ∈ [Event.rx 0#8, .rx 99#8], ∃ b, e = .rx b) ∧ ∀ e ∈ [Event.step, .rx 8#8, .step], e = .step ∨ ∃ b, e = .rx b :=
  ⟨tablesFrom_targets, rfl, rfl, rfl, rfl, by simp, by simp⟩

theorem test_witness_BuildReachesThePortAtTheNextStrobe :
    BlockInv played ∧ played.ph = .playback ∧ played.busy = false ∧ Event.reset ∉ List.replicate 18 Event.tick ∧
      (List.replicate 18 Event.tick).count .tick = 18 ∧ (List.replicate 18 Event.tick).head? = some .tick ∧
      ∃ t, runEvents (List.replicate 18 .tick) played = .next t :=
  ⟨blockInv_played, rfl, rfl, by decide, by decide, rfl, completes (by decide +kernel)⟩

theorem test_witness_MaskCoversTheWaveform : BlockInv played ∧ played.M.getLsbD 7 = false := ⟨blockInv_played, by decide⟩

theorem test_witness_DiagnosticFlagIsSticky :
    (∃ t, handle (.rx 5#8) (lost .illegal2) = .next t) ∧ (∃ t, handle .tick { State.reset with ph := .illegal } = .next t) ∧
      ∃ t, handle .reset { State.reset with ng := true } = .next t := ⟨⟨_, rfl⟩, ⟨_, rfl⟩, _, rfl⟩

theorem test_witness_DiagnosticFlagIsNeverRead :
    (∃ t, handle .tick { State.reset with ph := .illegal } = .next t) ∧ ∃ r, handle .step beyond = .refused r :=
  ⟨⟨_, rfl⟩, _, rfl⟩

theorem test_witness_StrobesOfACycleAreOrdered :
    (CycleInputs.mk true true 0#8 true).rst = true ∧ (CycleInputs.mk false true 0#8 true).rst = false := by decide

theorem test_witness_TickAndStepCommute :
    ((playing 249#8 0x04#8).busy = true ∧ (playing 249#8 0x04#8).idx = 250#8 ∧ (playing 249#8 0x04#8).ph = .playback ∧
      (playing 249#8 0x04#8).built = false) ∧
    ((playing 1#8 0x05#8).busy = true ∧ (playing 1#8 0x05#8).idx ≤ 250#8 ∧ (playing 1#8 0x05#8).idx ≠ 250#8) := by decide

theorem test_witness_ReceiveAndTickCommute :
    (Settled strobing ∧ (tickHandler strobing).buildDue = false) ∧ (Settled played ∧ (tickHandler played).buildDue = true) :=
  ⟨⟨settled_strobing, by decide⟩, settled_played, by decide⟩

theorem test_witness_StepTimerExpiresAfterItsPeriod :
    ((playing 1#8 0x05#8).busy = true ∧ (playing 1#8 0x05#8).stepTimer = some 0 ∧ (playing 1#8 0x05#8).idx ≤ 250#8) ∧
      0 < max 1 Config.stepCycles ∧ played.busy = false :=
  ⟨⟨rfl, rfl, by decide⟩, Nat.lt_of_lt_of_le Nat.zero_lt_one (Nat.le_max_left _ _), rfl⟩

end Sys2Proof.Tests
end

section
/-! PROOFS. The command framer: what bytes received in a settled state do to the block, one at a time and as the
pairs of the commands, and the statements of the family (41_command_framer). -/

namespace Sys2Proof.Machine

/-! ## Bytes received in a settled state -/

/-- A settled state is settled again after a byte (44_output_driver rule R199). -/
theorem settled_rxHandler {s : State} (hs : Settled s) (b : Byte) : Settled (rxHandler b s) :=
  settle_rxHandler hs b

theorem handle_rx_of_settled {s : State} (hs : Settled s) (b : Byte) : handle (.rx b) s = .next (rxHandler b s) := by
  rw [handle_rx, settle_rxHandler hs b]

theorem receiveAll_cons_of_settled {s : State} (hs : Settled s) (b : Byte) (bs : List Byte) :
    receiveAll (b :: bs) s = receiveAll bs (rxHandler b s) := by
  rw [receiveAll, receive_eq, settle_rxHandler hs b]

@[simp] theorem receiveAll_nil (s : State) : receiveAll [] s = s := rfl

theorem receiveAll_append (bs bs' : List Byte) (s : State) :
    receiveAll (bs ++ bs') s = receiveAll bs' (receiveAll bs s) := by
  induction bs generalizing s with
  | nil => rfl
  | cons b bs ih => exact ih (receive b s)

/-- A settled state is settled again after any bytes (44_output_driver rule R199). -/
theorem settled_receiveAll {s : State} (hs : Settled s) (bs : List Byte) : Settled (receiveAll bs s) := by
  induction bs generalizing s with
  | nil => exact hs
  | cons b bs ih =>
    rw [receiveAll_cons_of_settled hs]
    exact ih (settled_rxHandler hs b)

/-- The Target Table write neither reads nor writes the framer's registers. -/
theorem writeTarget_with_framer (s : State) (c v p : Byte) (q : ProtocolState) :
    ({ s with pch := p, ps := q }).writeTarget c v = { s.writeTarget c v with pch := p, ps := q } := by
  unfold State.writeTarget; split <;> rfl

/-- Forcing `AwaitingChannel` at a command boundary changes nothing. -/
theorem with_awaitingChannel {s : State} (hp : s.ps = .awaitingChannel) : { s with ps := .awaitingChannel } = s := by
  rw [← hp]

/-! ## Pairs of bytes from a command boundary -/

/-- A channel byte and a value byte: the entry is written if the channel byte selects one, and the channel byte
stays in `pch` (41_command_framer rules R122, R123). -/
theorem receiveAll_pair {s : State} (hs : Settled s) (hp : s.ps = .awaitingChannel) {c v : Byte} (hc : c ≠ 252#8)
    (hv : v ≠ 252#8) : receiveAll [c, v] s = { s.writeTarget c v with pch := c } := by
  have hps : (s.writeTarget c v).ps = .awaitingChannel := by rw [writeTarget_ps, hp]
  rw [receiveAll_cons_of_settled hs, receiveAll_cons_of_settled (settled_rxHandler hs c), receiveAll_nil,
    rxHandler_channel hc hp, rxHandler_value hv rfl, writeTarget_with_framer, ← hps]

/-- A pair with a valid channel byte (20_memory rule R61). -/
theorem receiveAll_pair_of_le {s : State} (hs : Settled s) (hp : s.ps = .awaitingChannel) {c v : Byte}
    (hc : c.toNat ≤ 8) (hv : v ≠ 252#8) :
    receiveAll [c, v] s = { s with T := s.T.set c.toNat v (by omega), pch := c } := by
  have hc' : c ≠ 252#8 := fun h => by simp [h] at hc
  rw [receiveAll_pair hs hp hc' hv, writeTarget_of_le s v hc]

/-- A pair for a pulse channel (41_command_framer rules R124 to R126). -/
theorem receiveAll_pulse_pair {s : State} (hs : Settled s) (hp : s.ps = .awaitingChannel) (ch : BitVec 3) {v : Byte}
    (hv : v ≠ 252#8) :
    receiveAll [chanByte ch, v] s = { s with T := s.T.set ch.toNat v (by omega), pch := chanByte ch } := by
  have hc : (chanByte ch).toNat ≤ 8 := by rw [toNat_chanByte]; omega
  simp [receiveAll_pair_of_le hs hp hc hv]

/-- The pair of the auxiliary output (41_command_framer rule R127). -/
theorem receiveAll_aux_pair {s : State} (hs : Settled s) (hp : s.ps = .awaitingChannel) {v : Byte}
    (hv : v ≠ 252#8) : receiveAll [8#8, v] s = { s with T := s.T.set 8 v, pch := 8#8 } :=
  receiveAll_pair_of_le hs hp (by decide) hv

/-- A channel byte and the reset byte: the pair is given up with nothing written (41_command_framer rule R121). -/
theorem receiveAll_aborted_pair {s : State} (hs : Settled s) (hp : s.ps = .awaitingChannel) {c : Byte}
    (hc : c ≠ 252#8) : receiveAll [c, 252#8] s = { s with pch := c } := by
  rw [receiveAll_cons_of_settled hs, receiveAll_cons_of_settled (settled_rxHandler hs c), receiveAll_nil,
    rxHandler_resetByte, rxHandler_channel hc hp, ← hp]

/-- Reset bytes at a command boundary, however many, change nothing (41_command_framer rule R134). -/
theorem receiveAll_resetBytes {s : State} (hs : Settled s) (hp : s.ps = .awaitingChannel) (n : Nat) :
    receiveAll (List.replicate n 252#8) s = s := by
  induction n with
  | zero => rfl
  | succ n ih =>
    rw [List.replicate_succ, receiveAll_cons_of_settled hs, rxHandler_resetByte, with_awaitingChannel hp, ih]

/-! ## What the builder makes of an entry -/

/-- The bits of a channel whose entry is above 250 are clear in both tables of a build
(43_table_builder rules R173, R174). -/
theorem built_bits_of_disabled (T : Vector Byte 9) {i : Nat} (hi : i < 8) (hd : channelEnabled T[i] = false) :
    (maskOf (snapshot T)).getLsbD i = false ∧ ∀ n, ((waveOf (snapshot T)).read n).getLsbD i = false := by
  constructor
  · rw [getLsbD_maskOf _ i hi, snapshot_getElem, hd]
  · intro n
    rw [read_waveOf]
    split
    · rw [getLsbD_waveEntry _ n i hi, snapshot_getElem, hd, Bool.and_false]
    · simp [unlistedByte]

/-- The builder does not read `T[8]` (43_table_builder rule R172). -/
theorem snapshot_set_aux (T : Vector Byte 9) (v : Byte) : snapshot (T.set 8 v) = snapshot T := by
  apply Vector.ext
  intro i hi
  have h8 : 8 ≠ i := by omega
  simp [Vector.getElem_set_ne _ _ h8]

/-! ## One byte -/

/-- Settles O16: one reset byte brings any settled state to a command boundary, where the others change nothing. -/
theorem syncResetsOnlyTheFramer : Obligations.SyncResetsOnlyTheFramer := by
  intro s
  refine ⟨rxHandler_resetByte s, fun hs => ?_⟩
  have hrx : handle (.rx 252#8) s = .next { s with ps := .awaitingChannel } := by
    rw [handle_rx_of_settled hs, rxHandler_resetByte]
  refine ⟨hrx, hrx, fun n => ?_⟩
  have hs' : Settled { s with ps := .awaitingChannel } := rxHandler_resetByte s ▸ settled_rxHandler hs 252#8
  rw [List.replicate_succ, receiveAll_cons_of_settled hs, rxHandler_resetByte, receiveAll_resetBytes hs' rfl]

/-- Settles O17. -/
theorem channelByteIsStored : Obligations.ChannelByteIsStored := by
  intro s b hs hp hb
  rw [handle_rx_of_settled hs, rxHandler_channel hb hp]

/-- Settles O18, by whether `pch` selects an entry; the `aux` clause is the write to entry 8. -/
theorem valueByteWritesItsEntry : Obligations.ValueByteWritesItsEntry := by
  intro s b hs hp hb
  have hrx : handle (.rx b) s = .next { s.writeTarget s.pch b with ps := .awaitingChannel } := by
    rw [handle_rx_of_settled hs, rxHandler_value hb hp]
  refine ⟨fun hle => ?_, fun hgt => ?_, fun h8 t ht => ?_⟩
  · rw [hrx, writeTarget_of_le s b hle]
  · rw [hrx, writeTarget_of_gt s b hgt]
  · rw [hrx, h8, writeTarget_of_le s b (by decide)] at ht
    cases ht
    simp [State.aux]

/-! ## The commands -/

theorem exec_dis (ch : BitVec 3) (s : State) : exec (.dis ch) s = .next (receiveAll [chanByte ch, 251#8] s) := rfl
theorem exec_aux (v : Byte) (s : State) : exec (.aux v) s = .next (receiveAll [8#8, v] s) := rfl
theorem exec_skip (c v : Byte) (s : State) : exec (.skip c v) s = .next (receiveAll [c, v] s) := rfl
theorem exec_abort (c : Byte) (s : State) : exec (.abort c) s = .next (receiveAll [c, 252#8] s) := rfl

/-- Settles O23: the pair stores 251, an entry the builder takes as disabled. -/
theorem disDisablesTheChannel : Obligations.DisDisablesTheChannel := by
  intro s ch hs hp
  refine ⟨_, by rw [exec_dis, receiveAll_pulse_pair hs hp ch (by decide)], rfl, ?_⟩
  have hd : channelEnabled (s.T.set ch.toNat 251#8 (by omega))[ch.toNat] = false := by
    rw [Vector.getElem_set_self]; decide
  exact built_bits_of_disabled _ ch.isLt hd

/-- Settles O25: `aux` is a wire from the entry just written, which the builder does not read. -/
theorem auxDrivesTheLineAtOnce : Obligations.AuxDrivesTheLineAtOnce := by
  intro s v hs hp hv
  refine ⟨_, by rw [exec_aux, receiveAll_aux_pair hs hp hv], rfl, ?_, ?_, ?_⟩
  · simp [State.aux]
  · exact congrArg maskOf (snapshot_set_aux s.T v)
  · exact congrArg waveOf (snapshot_set_aux s.T v)

/-- Settles O27: a channel byte above 8 selects no entry. -/
theorem skipDropsThePair : Obligations.SkipDropsThePair := by
  intro s c v hs hp h8 hc hv
  rw [exec_skip, receiveAll_pair hs hp hc hv, writeTarget_of_gt s v (BitVec.lt_def.mp h8)]

/-- Settles O28: the aborted pair ends at a command boundary again, where `d`, `v` are a pair. -/
theorem abortAbandonsThePair : Obligations.AbortAbandonsThePair := by
  intro s c hs hp hc
  have hab : receiveAll [c, 252#8] s = { s with pch := c } := receiveAll_aborted_pair hs hp hc
  have hs' : Settled { s with pch := c } := hab ▸ settled_receiveAll hs [c, 252#8]
  refine ⟨by rw [exec_abort, hab], fun d v hd hv => ?_⟩
  calc receiveAll [c, 252#8, d, v] s
    _ = receiveAll [d, v] { s with pch := c } := by rw [← hab]; exact receiveAll_append [c, 252#8] [d, v] s
    _ = { ({ s with pch := c }).writeTarget d v with pch := d } := receiveAll_pair hs' hp hd hv
    _ = { s.writeTarget d v with pch := d } := by rw [writeTarget_with_framer, ← writeTarget_ps s d v]

end Sys2Proof.Machine
end

section
/-! PROOFS. The phase sequencer: the phase and the counter move with `TICK` alone, so a run of events without `RESET`
moves them as often as it holds a `TICK`; and the statements of the family (42_phase_sequencer). -/

namespace Sys2Proof.Machine

/-! ## The `TICK` handler (42_phase_sequencer rules R153, R156) -/

/-- What the `TICK` handler writes is a function of the four fields it writes. -/
theorem tickHandler_congr {s u : State} (hp : u.ph = s.ph) (hc : u.cnt = s.cnt) (hr : u.rdy = s.rdy)
    (hn : u.ng = s.ng) :
    (tickHandler u).ph = (tickHandler s).ph ∧ (tickHandler u).cnt = (tickHandler s).cnt ∧
      (tickHandler u).rdy = (tickHandler s).rdy ∧ (tickHandler u).ng = (tickHandler s).ng := by
  cases h : s.ph with
  | strobe => rw [tickHandler_strobe h, tickHandler_strobe (hp.trans h)]; exact ⟨rfl, hc, rfl, hn⟩
  | playback => rw [tickHandler_playback h, tickHandler_playback (hp.trans h)]; exact ⟨rfl, rfl, hr, hn⟩
  | illegal => rw [tickHandler_illegal h, tickHandler_illegal (hp.trans h)]; exact ⟨rfl, hc, hr, rfl⟩
  | idle =>
    have hc1 : u.cnt + 1#8 = s.cnt + 1#8 := by rw [hc]
    cases ho : idleOver (s.cnt + 1#8) with
    | true =>
      rw [tickHandler_idle_last h ho, tickHandler_idle_last (hp.trans h) (hc1 ▸ ho)]
      exact ⟨rfl, hc1, hr, hn⟩
    | false =>
      rw [tickHandler_idle_counting h ho, tickHandler_idle_counting (hp.trans h) (hc1 ▸ ho)]
      exact ⟨hp, hc1, hr, hn⟩

/-- The Idle phase is over once the counter exceeds 16. -/
theorem idleOver_ofNat {n : Nat} (h : n < 256) : idleOver (BitVec.ofNat 8 n) = decide (16 < n) := by
  simp [idleOver, BitVec.lt_def, Nat.mod_eq_of_lt h]

/-! ## The events between two `TICK`s -/

theorem stepHandler_keeps_phase {s t : State} (h : stepHandler s = .next t) : (t.ph, t.cnt) = (s.ph, s.cnt) := by
  rcases stepHandler_cases s with ⟨-, he⟩ | ⟨-, -, he⟩ | ⟨-, -, he⟩ | ⟨-, -, he⟩ <;> rw [he] at h <;> cases h <;> rfl

/-- Neither `RX` nor `STEP` moves the phase or the counter. -/
theorem handle_keeps_phase {e : Event} {s t : State} (hr : e ≠ .reset) (ht : e ≠ .tick)
    (h : handle e s = .next t) : (t.ph, t.cnt) = (s.ph, s.cnt) := by
  cases e with
  | reset => exact absurd rfl hr
  | tick => exact absurd rfl ht
  | rx b => cases h; simp
  | step =>
    rw [handle_step] at h
    obtain ⟨u, hu, hut⟩ := andThen_eq_next.mp h
    cases hut
    simpa using stepHandler_keeps_phase hu

/-- A run with one more event goes through a state after the others. -/
theorem runEvents_concat_eq_next {es : List Event} {e : Event} {s t : State} :
    runEvents (es ++ [e]) s = .next t ↔ ∃ u, runEvents es s = .next u ∧ handle e u = .next t := by
  rw [runEvents_append, andThen_eq_next]
  simp [andThen_eq_next]

/-- A sequence `f` of phases and counters that every `TICK` follows for `N` ticks is followed by every run without
`RESET` of at most `N` ticks. -/
theorem phase_of_runEvents {f : Nat → PhaseState × Byte} {N : Nat}
    (hf : ∀ n < N, ∀ u : State, (u.ph, u.cnt) = f n → ((tickHandler u).ph, (tickHandler u).cnt) = f (n + 1))
    {es : List Event} {s t : State} (h0 : (s.ph, s.cnt) = f 0) (hr : Event.reset ∉ es) (hN : es.count .tick ≤ N)
    (h : runEvents es s = .next t) : (t.ph, t.cnt) = f (es.count .tick) := by
  induction es using List.reverseRecOn generalizing t with
  | nil => cases h; exact h0
  | append_singleton es e ih =>
    obtain ⟨u, hu, he⟩ := runEvents_concat_eq_next.mp h
    rw [List.mem_append, List.mem_singleton, not_or] at hr
    obtain ⟨hres, hre⟩ := hr
    rw [List.count_append] at hN
    have hph : (u.ph, u.cnt) = f (es.count .tick) := ih hres (by omega) hu
    by_cases htick : e = .tick
    · subst htick
      rw [List.count_singleton_self] at hN
      rw [List.count_append, List.count_singleton_self, ← hf _ (by omega) u hph]
      cases he
      simp
    · rw [List.count_append, List.count_singleton, if_neg (by simpa using htick), Nat.add_zero, ← hph]
      exact handle_keeps_phase (Ne.symm hre) htick he

/-! ## The phases of one cycle (42_phase_sequencer rule R155) -/

@[simp] theorem phaseAfterStrobe_zero (c : Byte) : phaseAfterStrobe c 0 = (.strobe, c) := rfl

@[simp] theorem phaseAfterStrobe_one (c : Byte) : phaseAfterStrobe c 1 = (.playback, c) := rfl

theorem phaseAfterStrobe_idle (c : Byte) {k : Nat} (hk : k ≤ 16) :
    phaseAfterStrobe c (k + 2) = (.idle, BitVec.ofNat 8 k) := by
  simp [phaseAfterStrobe, hk]

@[simp] theorem phaseAfterStrobe_last (c : Byte) : phaseAfterStrobe c 19 = (.strobe, 17#8) := rfl

/-- One `TICK` takes the block from each place of the cycle to the next. -/
theorem tickHandler_phaseAfterStrobe (c : Byte) {n : Nat} (hn : n < 19) {s : State}
    (h : (s.ph, s.cnt) = phaseAfterStrobe c n) :
    ((tickHandler s).ph, (tickHandler s).cnt) = phaseAfterStrobe c (n + 1) := by
  match n with
  | 0 =>
    obtain ⟨hp, hc⟩ := Prod.mk.inj h
    rw [tickHandler_strobe hp, phaseAfterStrobe_one, hc]
  | 1 =>
    obtain ⟨hp, -⟩ := Prod.mk.inj h
    rw [tickHandler_playback hp, phaseAfterStrobe_idle c (Nat.zero_le 16)]
  | k + 2 =>
    rw [phaseAfterStrobe_idle c (by omega)] at h
    obtain ⟨hp, hc⟩ := Prod.mk.inj h
    have hc1 : s.cnt + 1#8 = BitVec.ofNat 8 (k + 1) := by rw [hc, BitVec.ofNat_add]
    have ho : idleOver (s.cnt + 1#8) = decide (16 < k + 1) := by rw [hc1, idleOver_ofNat (by omega)]
    rcases Nat.lt_or_eq_of_le (show k ≤ 16 by omega) with hk | rfl
    · rw [tickHandler_idle_counting hp (ho.trans (decide_eq_false (by omega))), phaseAfterStrobe_idle c hk, ← hc1, ← hp]
    · rw [tickHandler_idle_last hp ho, phaseAfterStrobe_last, hc1]

/-! ## The statements -/

/-- Settles O33: every `TICK` takes the next place of the cycle, and no event between two ticks leaves it. -/
theorem cycleIsNineteenTicks : Obligations.CycleIsNineteenTicks := by
  intro es s t hs hr hn h
  have h0 : (s.ph, s.cnt) = phaseAfterStrobe s.cnt 0 := by rw [hs, phaseAfterStrobe_zero]
  exact phase_of_runEvents (fun _ hlt _ => tickHandler_phaseAfterStrobe s.cnt hlt) h0 hr hn h

/-- Settles O32: `settle()` touches none of the framer's elements either. -/
theorem tickNeverTouchesTheCommands : Obligations.TickNeverTouchesTheCommands := by
  refine ⟨fun s => ?_, fun s u => tickHandler_congr, fun s t h => ?_⟩
  · exact tickHandler_keeps (fun u => { u with
      ph := (tickHandler s).ph, cnt := (tickHandler s).cnt, rdy := (tickHandler s).rdy, ng := (tickHandler s).ng })
      s fun _ _ _ _ => rfl
  · rw [handle_tick] at h
    cases h
    simp [State.aux]

end Sys2Proof.Machine
end

section
/-! PROOFS. The table builder: what a build makes of the Target Table, bit by bit, what a sequence of commands
leaves there for it, and the statements of the family (43_table_builder). -/

namespace Sys2Proof.Machine

/-! ## What a build computes -/

/-- Bit `i` of a built entry is that of the channel's pulse (43_table_builder rule R174). -/
theorem getLsbD_read_build_W (s : State) {i t : Nat} (hi : i < 8) (ht : t ≤ 250) :
    ((build s).W.read t).getLsbD i = (decide (t < s.T[i].toNat) && decide (s.T[i] ≤ 250#8)) := by
  rw [build_W, read_waveOf, if_pos (by omega), getLsbD_waveEntry _ t i hi, snapshot_getElem]
  rfl

/-- The snapshot takes the pulse channels and no more (43_table_builder rule R172). -/
theorem snapshot_congr {T U : Vector Byte 9} (h : ∀ i : Fin 8, U[i.val] = T[i.val]) : snapshot U = snapshot T := by
  apply Vector.ext
  intro i hi
  rw [snapshot_getElem, snapshot_getElem]
  exact h ⟨i, hi⟩

/-- Settles O35. -/
theorem buildComputesMaskAndWaveform : Obligations.BuildComputesMaskAndWaveform := by
  intro s i
  refine ⟨?_, fun t ht => getLsbD_read_build_W s i.isLt ht⟩
  rw [build_M, getLsbD_maskOf _ _ i.isLt, snapshot_getElem]
  rfl

/-- Settles O37: both tables are functions of the snapshot, and a build leaves the Target Table as it was. -/
theorem buildDependsOnlyOnTheTargets : Obligations.BuildDependsOnlyOnTheTargets := by
  refine ⟨fun s u h => ?_, fun s => rfl, fun s => rfl⟩
  have hsnap : snapshot u.T = snapshot s.T := snapshot_congr h
  exact ⟨congrArg maskOf hsnap, congrArg waveOf hsnap⟩

/-! ## Whole commands from a command boundary -/

theorem exec_eq_receiveAll_encode (i : Instr) (s : State) : exec i s = .next (receiveAll (encode i) s) := by
  cases i <;> rfl

/-- The bytes of a well-formed command do what its rule says (41_command_framer rules R121, R124 to R129). -/
theorem receiveAll_encode {i : Instr} (hw : i.wf = true) {s : State} (hs : Settled s) (hp : s.ps = .awaitingChannel) :
    receiveAll (encode i) s = commandEffect i s := by
  cases i with
  | sync => exact receiveAll_resetBytes hs hp 1
  | setw ch w =>
    have hle : w ≤ 250#8 := of_decide_eq_true hw
    exact receiveAll_pulse_pair hs hp ch (by bv_omega)
  | dis ch => exact receiveAll_pulse_pair hs hp ch (by decide)
  | setx ch x =>
    have hlt : 252#8 < x := of_decide_eq_true hw
    exact receiveAll_pulse_pair hs hp ch (by bv_omega)
  | aux v => exact receiveAll_aux_pair hs hp (bne_iff_ne.mp hw)
  | skip c v =>
    obtain ⟨⟨h8, hc⟩, hv⟩ : (8#8 < c ∧ c ≠ 252#8) ∧ v ≠ 252#8 := by simpa [Instr.wf, isDataByte] using hw
    exact (receiveAll_pair hs hp hc hv).trans (by rw [writeTarget_of_gt s v (BitVec.lt_def.mp h8)]; rfl)
  | abort c => exact receiveAll_aborted_pair hs hp (bne_iff_ne.mp hw)
  | auxon => exact receiveAll_aux_pair hs hp (by decide)
  | auxoff => exact receiveAll_aux_pair hs hp (by decide)

/-- A command ends at the kind of boundary it starts at (30_encoding rule R96). -/
@[simp] theorem commandEffect_ps (i : Instr) (s : State) : (commandEffect i s).ps = s.ps := by
  cases i <;> rfl

/-- A settled state is settled again after a well-formed command (44_output_driver rule R199). -/
theorem settled_commandEffect {i : Instr} (hw : i.wf = true) {s : State} (hs : Settled s)
    (hp : s.ps = .awaitingChannel) : Settled (commandEffect i s) :=
  receiveAll_encode hw hs hp ▸ settled_receiveAll hs (encode i)

/-- Well-formed commands one after another complete, with the effects of their rules one after another. -/
theorem execAll_eq_foldl_commandEffect {is : List Instr} (hw : ∀ i ∈ is, i.wf = true) {s : State} (hs : Settled s)
    (hp : s.ps = .awaitingChannel) : execAll is s = .next (is.foldl (fun s i => commandEffect i s) s) := by
  induction is generalizing s with
  | nil => rfl
  | cons i is ih =>
    obtain ⟨hi, his⟩ := List.forall_mem_cons.mp hw
    calc execAll (i :: is) s
      _ = andThen (exec i s) (execAll is) := rfl
      _ = execAll is (commandEffect i s) := by
        rw [exec_eq_receiveAll_encode, receiveAll_encode hi hs hp, andThen_next]
      _ = .next (is.foldl (fun s i => commandEffect i s) (commandEffect i s)) :=
        ih his (settled_commandEffect hi hs hp) ((commandEffect_ps i s).trans hp)

/-! ## The value a channel is left with -/

/-- A write to a pulse channel, read at a pulse channel. -/
theorem getElem_set_channel (T : Vector Byte 9) (c ch : BitVec 3) (v : Byte) :
    (T.set c.toNat v (by omega))[ch.toNat]'(by omega) = (if c = ch then some v else none).getD T[ch.toNat] := by
  by_cases h : c = ch
  · subst h; simp
  · have hne : c.toNat ≠ ch.toNat := fun hn => h (BitVec.eq_of_toNat_eq hn)
    simp [h, hne]

/-- A write to the auxiliary entry changes no pulse channel. -/
theorem getElem_set_aux_channel (T : Vector Byte 9) (ch : BitVec 3) (v : Byte) :
    (T.set 8 v)[ch.toNat]'(by omega) = T[ch.toNat] :=
  Vector.getElem_set_ne _ _ (by omega)

/-- A command leaves a pulse channel with the value it writes for it, and else as it was. -/
theorem commandEffect_T_channel (i : Instr) (s : State) (ch : BitVec 3) :
    (commandEffect i s).T[ch.toNat] = (valueFor i ch).getD s.T[ch.toNat] := by
  cases i with
  | setw c w => exact getElem_set_channel s.T c ch w
  | dis c => exact getElem_set_channel s.T c ch 251#8
  | setx c x => exact getElem_set_channel s.T c ch x
  | aux v => exact getElem_set_aux_channel s.T ch v
  | auxon => exact getElem_set_aux_channel s.T ch 1#8
  | auxoff => exact getElem_set_aux_channel s.T ch 0#8
  | sync | skip _ _ | abort _ => rfl

/-- A sequence of commands leaves a pulse channel with the last value written for it (43_table_builder rule R183). -/
theorem foldl_commandEffect_T_channel (is : List Instr) (s : State) (ch : BitVec 3) :
    (is.foldl (fun s i => commandEffect i s) s).T[ch.toNat] = (lastValue is ch).getD s.T[ch.toNat] := by
  induction is generalizing s with
  | nil => rfl
  | cons i is ih =>
    rw [List.foldl_cons, ih, commandEffect_T_channel, lastValue]
    cases lastValue is ch <;> rfl

/-- Settles O43: the commands complete with their rules' effects, so the build finds each channel's last value. -/
theorem lastAcceptedValueIsBuilt : Obligations.LastAcceptedValueIsBuilt := by
  intro is s hs hp hw
  refine ⟨_, execAll_eq_foldl_commandEffect hw hs hp, fun ch => ?_⟩
  have hT := foldl_commandEffect_T_channel is s ch
  refine ⟨fun value hv t ht => ?_, fun hn => ?_⟩
  · rw [hv, Option.getD_some] at hT
    rw [getLsbD_read_build_W _ ch.isLt ht, hT]
  · rw [hT, hn, Option.getD_none]

end Sys2Proof.Machine
end

section
/-! PROOFS. The exceptions: the repair of an illegal protocol state (60_exceptions). -/

namespace Sys2Proof.Machine

/-- Settles O19: neither illegal code is a state that takes the byte, and the repair leaves a settled state settled. -/
theorem illegalProtocolStateIsRepaired : Obligations.IllegalProtocolStateIsRepaired := by
  intro s b hs hill hb
  have hchannel : s.ps ≠ .awaitingChannel := by rcases hill with h | h <;> simp [h]
  have hvalue : s.ps ≠ .awaitingValue := by rcases hill with h | h <;> simp [h]
  rw [handle_rx_of_settled hs, rxHandler_illegal hb hchannel hvalue]

end Sys2Proof.Machine
end

section
/-! PROOFS. The encoding: what each pair of bytes decodes to, that decoding and encoding undo each other, one command
at a time and over whole streams, and that the framer reads what the decoder reads (30_encoding). -/

namespace Sys2Proof

/-! ## A pair of bytes -/

/-- What a pair of bytes decodes to, by the ranges of its bytes (30_encoding rule R97). -/
theorem decodePair_cases (c v : Byte) :
    (v = 252#8 ∧ decodePair c v = .abort c) ∨
    (c < 8#8 ∧ v ≤ 250#8 ∧ decodePair c v = .setw (c.truncate 3) v) ∨
    (c < 8#8 ∧ v = 251#8 ∧ decodePair c v = .dis (c.truncate 3)) ∨
    (c < 8#8 ∧ 252#8 < v ∧ decodePair c v = .setx (c.truncate 3) v) ∨
    (c = 8#8 ∧ v ≠ 252#8 ∧ decodePair c v = .aux v) ∨
    (8#8 < c ∧ v ≠ 252#8 ∧ decodePair c v = .skip c v) := by
  by_cases hv : v = 252#8
  · subst hv; exact .inl ⟨rfl, decodePair_abort c⟩
  refine .inr ?_
  rcases (show c < 8#8 ∨ c = 8#8 ∨ 8#8 < c by bv_omega) with hc | rfl | hc
  · rcases (show v ≤ 250#8 ∨ v = 251#8 ∨ 252#8 < v by bv_omega) with hw | rfl | hx
    · exact .inl ⟨hc, hw, decodePair_setw hc hw⟩
    · exact .inr (.inl ⟨hc, rfl, decodePair_dis hc⟩)
    · exact .inr (.inr (.inl ⟨hc, hx, decodePair_setx hc hx⟩))
  · exact .inr (.inr (.inr (.inl ⟨rfl, hv, decodePair_aux hv⟩)))
  · exact .inr (.inr (.inr (.inr ⟨hc, hv, decodePair_skip hc hv⟩)))

/-- Encoding undoes the decoding of a pair. -/
theorem encode_decodePair (c v : Byte) : encode (decodePair c v) = [c, v] := by
  rcases decodePair_cases c v with ⟨rfl, h⟩ | ⟨hc, -, h⟩ | ⟨hc, rfl, h⟩ | ⟨hc, -, h⟩ | ⟨rfl, -, h⟩ | ⟨-, -, h⟩ <;>
    simp only [encode, chanByte_truncate, *]

/-- The operands read from a pair are ones the encoding admits (30_encoding rule R97). -/
theorem wf_decodePair {c : Byte} (hc : c ≠ 252#8) (v : Byte) : (decodePair c v).wf = true := by
  rcases decodePair_cases c v with ⟨-, h⟩ | ⟨-, hv, h⟩ | ⟨-, -, h⟩ | ⟨-, hv, h⟩ | ⟨-, hv, h⟩ | ⟨h8, hv, h⟩ <;>
    simp [Instr.wf, isDataByte, *]

/-- A well-formed command is the reset byte, or a pair of bytes that decodes to what the command stands for
(30_encoding rules R95, R97, R102). -/
theorem encode_of_wf {i : Instr} (hw : i.wf = true) :
    (i = .sync ∧ encode i = [252#8]) ∨
      ∃ c v : Byte, c ≠ 252#8 ∧ encode i = [c, v] ∧ decodePair c v = i.expand := by
  cases i with
  | sync => exact .inl ⟨rfl, rfl⟩
  | setw ch w =>
    refine .inr ⟨_, _, chanByte_ne_resetByte ch, rfl, ?_⟩
    rw [decodePair_setw (chanByte_lt ch) (of_decide_eq_true hw), truncate_chanByte, Instr.expand]
  | dis ch =>
    refine .inr ⟨_, _, chanByte_ne_resetByte ch, rfl, ?_⟩
    rw [decodePair_dis (chanByte_lt ch), truncate_chanByte, Instr.expand]
  | setx ch x =>
    refine .inr ⟨_, _, chanByte_ne_resetByte ch, rfl, ?_⟩
    rw [decodePair_setx (chanByte_lt ch) (of_decide_eq_true hw), truncate_chanByte, Instr.expand]
  | aux v => exact .inr ⟨8#8, v, by decide, rfl, decodePair_aux (bne_iff_ne.mp hw)⟩
  | skip c v =>
    obtain ⟨⟨h8, hc⟩, hv⟩ : (8#8 < c ∧ c ≠ 252#8) ∧ v ≠ 252#8 := by simpa [Instr.wf, isDataByte] using hw
    exact .inr ⟨c, v, hc, rfl, decodePair_skip h8 hv⟩
  | abort c => exact .inr ⟨c, 252#8, bne_iff_ne.mp hw, rfl, decodePair_abort c⟩
  | auxon => exact .inr ⟨8#8, 1#8, by decide, rfl, decodePair_aux (by decide)⟩
  | auxoff => exact .inr ⟨8#8, 0#8, by decide, rfl, decodePair_aux (by decide)⟩

/-! ## The rows of the opcode table -/

/-- Two pairs of bytes are equal as words iff they are byte by byte. -/
theorem append_eq_append_iff (a b c d : Byte) : a ++ b = c ++ d ↔ a = c ∧ b = d := by
  refine ⟨fun h => ?_, fun ⟨h, h'⟩ => by rw [h, h']⟩
  have hn := congrArg BitVec.toNat h
  rw [BitVec.toNat_append, BitVec.toNat_append, ← Nat.shiftLeft_add_eq_or_of_lt b.isLt,
    ← Nat.shiftLeft_add_eq_or_of_lt d.isLt, Nat.shiftLeft_eq, Nat.shiftLeft_eq] at hn
  constructor <;> bv_omega

/-- A mask and a pattern over a word are those of its two bytes (30_encoding rule R91). -/
theorem masked_append_iff (c v m m' p p' : Byte) :
    (c ++ v) &&& (m ++ m') = p ++ p' ↔ c &&& m = p ∧ v &&& m' = p' := by
  rw [BitVec.and_append, append_eq_append_iff]

theorem and_full_mask (v : Byte) : v &&& 0xFF#8 = v := BitVec.and_allOnes

theorem masked_pulse_channel : ∀ c : Byte, c &&& 0xF8#8 = 0x00#8 ↔ c < 8#8 := by decide

theorem masked_setx_value : ∀ v : Byte, v &&& 0xFC#8 = 0xFC#8 ↔ 252#8 ≤ v := by decide

theorem hits_setw (c v : Byte) : F2Row.setw.hits c v = true ↔ c < 8#8 ∧ v ≤ 250#8 := by
  have h : (c ++ v) &&& 0xF800#16 = 0x0000#16 ↔ c < 8#8 := by
    rw [← masked_pulse_channel]
    exact (masked_append_iff c v 0xF8#8 0x00#8 0x00#8 0x00#8).trans (and_iff_left BitVec.and_zero)
  simp [F2Row.hits, F2Row.mask, F2Row.pattern, F2Row.constraint, h]

theorem hits_dis (c v : Byte) : F2Row.dis.hits c v = true ↔ c < 8#8 ∧ v = 251#8 := by
  have h : (c ++ v) &&& 0xF8FF#16 = 0x00FB#16 ↔ c < 8#8 ∧ v = 251#8 := by
    rw [← masked_pulse_channel]
    exact (masked_append_iff c v 0xF8#8 0xFF#8 0x00#8 0xFB#8).trans (and_congr_right' (by rw [and_full_mask]))
  simp [F2Row.hits, F2Row.mask, F2Row.pattern, F2Row.constraint, h]

theorem hits_setx (c v : Byte) : F2Row.setx.hits c v = true ↔ c < 8#8 ∧ 252#8 < v := by
  have h : (c ++ v) &&& 0xF8FC#16 = 0x00FC#16 ↔ c < 8#8 ∧ 252#8 ≤ v := by
    rw [← masked_pulse_channel, ← masked_setx_value]
    exact masked_append_iff c v 0xF8#8 0xFC#8 0x00#8 0xFC#8
  rw [F2Row.hits, Bool.and_eq_true, decide_eq_true_eq]
  exact (and_congr h bne_iff_ne).trans (by bv_omega)

theorem hits_aux (c v : Byte) : F2Row.aux.hits c v = true ↔ c = 8#8 ∧ v ≠ 252#8 := by
  have h : (c ++ v) &&& 0xFF00#16 = 0x0800#16 ↔ c = 8#8 := by
    refine (masked_append_iff c v 0xFF#8 0x00#8 0x08#8 0x00#8).trans ?_
    rw [and_full_mask]
    exact and_iff_left BitVec.and_zero
  simp [F2Row.hits, F2Row.mask, F2Row.pattern, F2Row.constraint, h, isDataByte]

theorem hits_skip (c v : Byte) : F2Row.skip.hits c v = true ↔ 8#8 < c ∧ c ≠ 252#8 ∧ v ≠ 252#8 := by
  simp [F2Row.hits, F2Row.mask, F2Row.pattern, F2Row.constraint, isDataByte, and_assoc]

theorem hits_abort (c v : Byte) : F2Row.abort.hits c v = true ↔ v = 252#8 ∧ c ≠ 252#8 := by
  have h : (c ++ v) &&& 0x00FF#16 = 0x00FC#16 ↔ v = 252#8 := by
    refine (masked_append_iff c v 0x00#8 0xFF#8 0x00#8 0xFC#8).trans ?_
    rw [and_full_mask]
    exact and_iff_right BitVec.and_zero
  simp [F2Row.hits, F2Row.mask, F2Row.pattern, F2Row.constraint, h, isDataByte]

/-- A row hits a pair exactly when the pair decodes to a command of that row: the ranges of the bytes of the
rows exclude one another (30_encoding rule R97). -/
theorem hits_iff_f2Row {c : Byte} (hc : c ≠ 252#8) (v : Byte) (r : F2Row) :
    r.hits c v = true ↔ (decodePair c v).f2Row = some r := by
  rcases decodePair_cases c v with ⟨hv, h⟩ | ⟨h8, hv, h⟩ | ⟨h8, hv, h⟩ | ⟨h8, hv, h⟩ | ⟨h8, hv, h⟩ | ⟨h8, hv, h⟩ <;>
    rw [h] <;> cases r <;>
    simp only [hits_setw, hits_dis, hits_setx, hits_aux, hits_skip, hits_abort, Instr.f2Row, Option.some.injEq,
      reduceCtorEq, iff_true, iff_false] <;>
    bv_omega

/-- Settles O9: the row that hits is the one of the decoded command, and a pair is never `SYNC`. -/
theorem everyPairMatchesExactlyItsRow : Obligations.EveryPairMatchesExactlyItsRow := by
  intro c v hc
  refine ⟨hits_iff_f2Row hc v, ?_, wf_decodePair hc v⟩
  have hrow : ∃ r, (decodePair c v).f2Row = some r := by
    rcases decodePair_cases c v with ⟨-, h⟩ | ⟨-, -, h⟩ | ⟨-, -, h⟩ | ⟨-, -, h⟩ | ⟨-, -, h⟩ | ⟨-, -, h⟩ <;>
      exact ⟨_, by rw [h]; rfl⟩
  exact hrow.imp fun r => (hits_iff_f2Row hc v r).mpr

/-! ## One command -/

theorem decode_resetByte (bs : List Byte) : decode (252#8 :: bs) = .command .sync bs := rfl

theorem decode_pair {c : Byte} (hc : c ≠ 252#8) (v : Byte) (bs : List Byte) :
    decode (c :: v :: bs) = .command (decodePair c v) bs := by
  simp [decode, hc]

theorem decode_channelByteAlone {c : Byte} (hc : c ≠ 252#8) : decode [c] = .rejected (.channelByteAlone c) := by
  simp [decode, hc]

/-- Settles O8, by the length of the command: the reset byte, or a pair. -/
theorem decodeOfEncodeIsTheCommand : Obligations.DecodeOfEncodeIsTheCommand := by
  intro i rest hw
  rcases encode_of_wf hw with ⟨rfl, he⟩ | ⟨c, v, hc, he, hd⟩
  · exact decode_resetByte rest
  · rw [he, ← hd]
    exact decode_pair hc v rest

/-- Settles O7. -/
theorem specWordsDecode : Obligations.SpecWordsDecode := by
  unfold Obligations.SpecWordsDecode
  decide

/-! ## Streams -/

theorem decodeStream_resetByte (bs : List Byte) :
    decodeStream (252#8 :: bs) = (.sync :: (decodeStream bs).1, (decodeStream bs).2) := by
  cases bs <;> simp [decodeStream]

theorem decodeStream_pair {c : Byte} (hc : c ≠ 252#8) (v : Byte) (bs : List Byte) :
    decodeStream (c :: v :: bs) = (decodePair c v :: (decodeStream bs).1, (decodeStream bs).2) := by
  simp [decodeStream, hc]

theorem decodeStream_channelByteAlone {c : Byte} (hc : c ≠ 252#8) : decodeStream [c] = ([], some c) := by
  simp [decodeStream, hc]

/-- The induction over a byte sequence as the decoder reads it: nothing, a reset byte, an incomplete pair, a pair
(30_encoding rule R96). -/
theorem stream_induction {P : List Byte → Prop} (nil : P []) (reset : ∀ bs, P bs → P (252#8 :: bs))
    (alone : ∀ c, c ≠ 252#8 → P [c]) (pair : ∀ c v bs, c ≠ 252#8 → P bs → P (c :: v :: bs)) (bs : List Byte) :
    P bs := by
  induction bs using decodeStream.induct with
  | case1 => exact nil
  | case2 => exact reset [] nil
  | case3 c hc => exact alone c hc
  | case4 v bs ih => exact reset _ ih
  | case5 c v bs hc ih => exact pair c v bs hc ih

/-- Settles O10. -/
theorem streamDecodingLosesNoByte : Obligations.StreamDecodingLosesNoByte := by
  intro bs
  induction bs using stream_induction with
  | nil => simp [decodeStream]
  | reset bs ih =>
    obtain ⟨hbytes, hwf, hleft⟩ := ih
    rw [decodeStream_resetByte]
    exact ⟨congrArg (252#8 :: ·) hbytes, List.forall_mem_cons.mpr ⟨rfl, hwf⟩, hleft⟩
  | alone c hc => simp [decodeStream_channelByteAlone hc, hc]
  | pair c v bs hc ih =>
    obtain ⟨hbytes, hwf, hleft⟩ := ih
    rw [decodeStream_pair hc]
    refine ⟨?_, List.forall_mem_cons.mpr ⟨wf_decodePair hc v, hwf⟩, hleft⟩
    rw [List.flatMap_cons, encode_decodePair, List.append_assoc, hbytes]
    rfl

/-- The bytes of a well-formed command in front of a stream are read as that command (30_encoding rule R96). -/
theorem decodeStream_encode_append {i : Instr} (hw : i.wf = true) (bs : List Byte) :
    decodeStream (encode i ++ bs) = (i.expand :: (decodeStream bs).1, (decodeStream bs).2) := by
  rcases encode_of_wf hw with ⟨rfl, he⟩ | ⟨c, v, hc, he, hd⟩
  · exact decodeStream_resetByte bs
  · rw [he, ← hd]
    exact decodeStream_pair hc v bs

/-- Settles O11, by induction on the commands. -/
theorem streamDecodingIsUnique : Obligations.StreamDecodingIsUnique := by
  intro is hw
  induction is with
  | nil => simp [decodeStream]
  | cons i is ih =>
    obtain ⟨hi, his⟩ := List.forall_mem_cons.mp hw
    rw [List.flatMap_cons, decodeStream_encode_append hi, ih his, List.map_cons]

end Sys2Proof

namespace Sys2Proof.Machine

/-! ## The framer against the decoder -/

theorem streamEffect_resetByte (bs : List Byte) (s : State) : streamEffect (252#8 :: bs) s = streamEffect bs s := by
  rw [streamEffect, streamEffect, decodeStream_resetByte]
  rcases decodeStream bs with ⟨is, _ | c⟩ <;> rfl

theorem streamEffect_channelByteAlone {c : Byte} (hc : c ≠ 252#8) (s : State) :
    streamEffect [c] s = { s with pch := c, ps := .awaitingValue } := by
  rw [streamEffect, decodeStream_channelByteAlone hc]
  rfl

theorem streamEffect_pair {c : Byte} (hc : c ≠ 252#8) (v : Byte) (bs : List Byte) (s : State) :
    streamEffect (c :: v :: bs) s = streamEffect bs (commandEffect (decodePair c v) s) := by
  rw [streamEffect, streamEffect, decodeStream_pair hc]
  rcases decodeStream bs with ⟨is, _ | c⟩ <;> rfl

/-- From a command boundary the framer does what the decoded commands do (30_encoding rule R96, 41_command_framer
rule R120). -/
theorem receiveAll_eq_streamEffect (bs : List Byte) {s : State} (hs : Settled s) (hp : s.ps = .awaitingChannel) :
    receiveAll bs s = streamEffect bs s := by
  induction bs using stream_induction generalizing s with
  | nil => rfl
  | reset bs ih =>
    rw [receiveAll_cons_of_settled hs, rxHandler_resetByte, with_awaitingChannel hp, ih hs hp, streamEffect_resetByte]
  | alone c hc =>
    rw [receiveAll_cons_of_settled hs, receiveAll_nil, rxHandler_channel hc hp, streamEffect_channelByteAlone hc]
  | pair c v bs hc ih =>
    have hw : (decodePair c v).wf = true := wf_decodePair hc v
    have hpair : receiveAll [c, v] s = commandEffect (decodePair c v) s := by
      rw [← encode_decodePair c v]; exact receiveAll_encode hw hs hp
    calc receiveAll (c :: v :: bs) s
      _ = receiveAll bs (receiveAll [c, v] s) := receiveAll_append [c, v] bs s
      _ = receiveAll bs (commandEffect (decodePair c v) s) := by rw [hpair]
      _ = streamEffect bs (commandEffect (decodePair c v) s) :=
        ih (settled_commandEffect hw hs hp) ((commandEffect_ps _ s).trans hp)
      _ = streamEffect (c :: v :: bs) s := (streamEffect_pair hc v bs s).symm

/-- The settled form does not speak of `ps`. -/
theorem settled_with_ps {s : State} (hs : Settled s) (p : ProtocolState) : Settled { s with ps := p } :=
  (settled_iff _).mpr ((settled_iff s).mp hs)

/-- Settles O12: a state in `AwaitingValue` is the one its pending byte leads to from a command boundary. -/
theorem framerRunsTheDecodedCommands : Obligations.FramerRunsTheDecodedCommands := by
  intro bs s hs
  refine ⟨receiveAll_eq_streamEffect bs hs, fun hp hc => ?_⟩
  have hs' : Settled { s with ps := .awaitingChannel } := settled_with_ps hs _
  have hpending : rxHandler s.pch { s with ps := .awaitingChannel } = s := by
    rw [rxHandler_channel hc rfl, ← hp]
  rw [← receiveAll_eq_streamEffect (s.pch :: bs) hs' rfl, receiveAll_cons_of_settled hs', hpending]

end Sys2Proof.Machine
end

section
/-! PROOFS. The commands: what a byte and a command leave unchanged, what the pulse commands make the builder play, and
commands sent off a command boundary (41_command_framer). -/

namespace Sys2Proof.Machine

/-! ## What a byte leaves unchanged -/

/-- A write leaves every entry but the selected one (20_memory rule R61). -/
theorem writeTarget_T_other (s : State) (c b : Byte) {j : Nat} (hj : j < 9) (hc : c.toNat ≠ j) :
    (s.writeTarget c b).T[j] = s.T[j] := by
  by_cases hle : c.toNat ≤ 8
  · rw [writeTarget_of_le s b hle]
    exact Vector.getElem_set_ne (by omega) hj hc
  · rw [writeTarget_of_gt s b (by omega)]

/-- What a write leaves in the Target Table depends on the table alone. -/
theorem writeTarget_T_congr {s u : State} (h : u.T = s.T) (c b : Byte) :
    (u.writeTarget c b).T = (s.writeTarget c b).T := by
  by_cases hle : c.toNat ≤ 8
  · simp [writeTarget_of_le _ b hle, h]
  · simp [writeTarget_of_gt _ b (Nat.lt_of_not_le hle), h]

/-- The `RX` handler writes no entry of `T` but the one a value byte is for (41_command_framer rule R123). -/
theorem rxHandler_T_other (b : Byte) (s : State) {j : Nat} (hj : j < 9)
    (h : ¬ (s.ps = .awaitingValue ∧ b ≠ 252#8 ∧ s.pch.toNat = j)) : (rxHandler b s).T[j] = s.T[j] := by
  by_cases hb : b = 252#8
  · rw [hb, rxHandler_resetByte]
  · cases hp : s.ps with
    | awaitingChannel => rw [rxHandler_channel hb hp]
    | awaitingValue =>
      rw [rxHandler_value hb hp]
      exact writeTarget_T_other s s.pch b hj fun hc => h ⟨hp, hb, hc⟩
    | illegal2 | illegal3 => rw [rxHandler_illegal hb (by simp [hp]) (by simp [hp])]

/-- What the `RX` handler writes depends on `ps`, `pch`, `T` and `ng` alone (41_command_framer rule R133). -/
theorem rxHandler_congr {s u : State} (b : Byte) (hT : u.T = s.T) (hps : u.ps = s.ps) (hpch : u.pch = s.pch)
    (hng : u.ng = s.ng) :
    (rxHandler b u).T = (rxHandler b s).T ∧ (rxHandler b u).ps = (rxHandler b s).ps ∧
      (rxHandler b u).pch = (rxHandler b s).pch ∧ (rxHandler b u).ng = (rxHandler b s).ng := by
  by_cases hb : b = 252#8
  · rw [hb, rxHandler_resetByte, rxHandler_resetByte]
    exact ⟨hT, rfl, hpch, hng⟩
  · cases hp : s.ps with
    | awaitingChannel =>
      rw [rxHandler_channel hb hp, rxHandler_channel hb (hps.trans hp)]
      exact ⟨hT, rfl, rfl, hng⟩
    | awaitingValue =>
      rw [rxHandler_value hb hp, rxHandler_value hb (hps.trans hp), hpch]
      exact ⟨writeTarget_T_congr hT s.pch b, rfl, by simpa using hpch, by simpa using hng⟩
    | illegal2 | illegal3 =>
      rw [rxHandler_illegal (s := s) hb (by simp [hp]) (by simp [hp]),
        rxHandler_illegal (s := u) hb (by simp [hps, hp]) (by simp [hps, hp])]
      exact ⟨hT, rfl, hpch, rfl⟩

/-- Settles O20: in a settled state the event is its handler alone. -/
theorem receiveTouchesOnlyTheFramer : Obligations.ReceiveTouchesOnlyTheFramer := by
  refine ⟨fun s t b hs h => ?_, fun s u b => rxHandler_congr b⟩
  rw [handle_rx_of_settled hs] at h
  cases h
  simp only [rxHandler_M, rxHandler_W, rxHandler_ph, rxHandler_cnt, rxHandler_rdy, rxHandler_port, rxHandler_idx,
    rxHandler_busy, rxHandler_built, rxHandler_stepTimer, rxHandler_pending, implies_true, true_and]
  exact fun j => rxHandler_T_other b s j.isLt

/-! ## Whole commands -/

/-- Settles O21. -/
theorem everyCommandIsItsBytes : Obligations.EveryCommandIsItsBytes := exec_eq_receiveAll_encode

/-- What a well-formed command does from a command boundary, by its bytes: nothing for the reset byte, `pch` alone for an
aborted pair, the one entry and `pch` for a whole pair (41_command_framer rules R121 to R123). -/
theorem exec_cases {i : Instr} (hw : i.wf = true) {s t : State} (hs : Settled s) (hp : s.ps = .awaitingChannel)
    (h : exec i s = .next t) :
    (encode i = [252#8] ∧ t = s) ∨
    (∃ c, encode i = [c, 252#8] ∧ t = { s with pch := c }) ∨
    (∃ c v, encode i = [c, v] ∧ v ≠ 252#8 ∧ t = { s.writeTarget c v with pch := c }) := by
  rw [exec_eq_receiveAll_encode] at h
  cases h
  rcases encode_of_wf hw with ⟨-, he⟩ | ⟨c, v, hc, he, -⟩ <;> rw [he]
  · exact .inl ⟨rfl, receiveAll_resetBytes hs hp 1⟩
  · by_cases hv : v = 252#8
    · subst hv
      exact .inr (.inl ⟨c, rfl, receiveAll_aborted_pair hs hp hc⟩)
    · exact .inr (.inr ⟨c, v, rfl, hv, receiveAll_pair hs hp hc hv⟩)

/-- Settles O29, by the bytes of the command. -/
theorem commandFrame : Obligations.CommandFrame := by
  intro i s t hw hs hp h
  rcases exec_cases hw hs hp h with ⟨he, rfl⟩ | ⟨c, he, rfl⟩ | ⟨c, v, he, hv, rfl⟩
  · simp [he, hp]
  · simp [he, hp]
  · simp only [he, writeTarget_M, writeTarget_W, writeTarget_ps, writeTarget_ph, writeTarget_cnt, writeTarget_rdy,
      writeTarget_ng, writeTarget_port, writeTarget_idx, writeTarget_busy, writeTarget_built, writeTarget_stepTimer,
      writeTarget_pending, hp, implies_true, true_and]
    refine ⟨fun j hj => writeTarget_T_other s c v j.isLt (hj c v rfl hv), ?_, ?_⟩
    · rintro b w ⟨⟩; rfl
    · rintro ⟨⟩

/-- Settles O30: the first byte ends what was pending and leaves a command boundary, where the second is a channel
byte. -/
theorem commandOffBoundaryIsMisframed : Obligations.CommandOffBoundaryIsMisframed := by
  intro i s b v hs he hb hv
  have hexec : exec i s = .next (rxHandler v (rxHandler b s)) := by
    rw [exec_eq_receiveAll_encode, he, receiveAll_cons_of_settled hs,
      receiveAll_cons_of_settled (settled_rxHandler hs b), receiveAll_nil]
  refine ⟨fun hp => ?_, fun hill => ?_⟩
  · rw [hexec, rxHandler_value hb hp, rxHandler_channel hv rfl]
  · have hchannel : s.ps ≠ .awaitingChannel := by rcases hill with h | h <;> simp [h]
    have hvalue : s.ps ≠ .awaitingValue := by rcases hill with h | h <;> simp [h]
    rw [hexec, rxHandler_illegal hb hchannel hvalue, rxHandler_channel hv rfl]

/-! ## The pulse commands and the auxiliary line -/

theorem exec_setw (ch : BitVec 3) (w : Byte) (s : State) :
    exec (.setw ch w) s = .next (receiveAll [chanByte ch, w] s) := rfl
theorem exec_setx (ch : BitVec 3) (x : Byte) (s : State) :
    exec (.setx ch x) s = .next (receiveAll [chanByte ch, x] s) := rfl
theorem exec_auxon (s : State) : exec .auxon s = .next (receiveAll [8#8, 1#8] s) := rfl
theorem exec_auxoff (s : State) : exec .auxoff s = .next (receiveAll [8#8, 0#8] s) := rfl

/-- Settles O22: the entry written is a width, which the builder plays for as many time-steps. -/
theorem setwWritesTheWidth : Obligations.SetwWritesTheWidth := by
  intro s ch w hs hp hw
  refine ⟨_, by rw [exec_setw, receiveAll_pulse_pair hs hp ch (by bv_omega)], rfl, ?_, fun n hn => ?_⟩
  · rw [build_M, getLsbD_maskOf _ _ ch.isLt, snapshot_getElem, Vector.getElem_set_self]
    exact decide_eq_true hw
  · rw [getLsbD_read_build_W _ ch.isLt hn, Vector.getElem_set_self, decide_eq_true hw, Bool.and_true]

/-- Settles O24: the value stored is above 250, which the builder takes as disabled. -/
theorem setxStoresTheValueAsReceived : Obligations.SetxStoresTheValueAsReceived := by
  intro s ch x hs hp hx
  refine ⟨_, by rw [exec_setx, receiveAll_pulse_pair hs hp ch (by bv_omega)], rfl, ?_⟩
  have hd : channelEnabled (s.T.set ch.toNat x (by omega))[ch.toNat] = false := by
    rw [Vector.getElem_set_self]
    exact decide_eq_false (show ¬ x ≤ 250#8 by bv_omega)
  exact built_bits_of_disabled _ ch.isLt hd

/-- Settles O26. -/
theorem auxonAndAuxoffSetTheLine : Obligations.AuxonAndAuxoffSetTheLine := by
  refine fun s => ⟨rfl, rfl, fun hs hp => ⟨?_, ?_⟩⟩
  · exact ⟨_, by rw [exec_auxon, receiveAll_aux_pair hs hp (by decide)], rfl, by simp [State.aux]⟩
  · exact ⟨_, by rw [exec_auxoff, receiveAll_aux_pair hs hp (by decide)], rfl, by simp [State.aux]⟩

end Sys2Proof.Machine
end

section
/-! PROOFS. The events as whole: `settle()` after each handler, what each event can do to the driver and the tables, which
fields the handlers do not read, and the diagnostic flag (44_output_driver, 60_exceptions). -/

namespace Sys2Proof.Machine

/-! ## `settle()` (44_output_driver rules R190, R199) -/

/-- Every case of `settle()` leaves a settled state. -/
theorem settled_settle (s : State) : Settled (settle s) := by
  refine (settled_iff _).mpr ?_
  rcases settle_cases s with ⟨hb, he⟩ | ⟨-, hp, he⟩ | ⟨-, -, -, he⟩ | ⟨-, hp, hr, he⟩ | ⟨-, hp, hc, -, he⟩ |
    ⟨-, hp, hc, hl, he⟩ | ⟨-, hp, hc, he⟩ | ⟨-, hp, he⟩ <;> rw [he]
  · exact .inl hb
  · exact .inr (.inl ⟨hp, rfl, rfl⟩)
  · exact .inl rfl
  · exact .inr (.inr (.inl ⟨hp, hr, rfl⟩))
  · exact .inr (.inr (.inr (.inl ⟨hp, hc, rfl, rfl⟩)))
  · exact .inr (.inr (.inr (.inl ⟨hp, hc, hl, rfl⟩)))
  · exact .inr (.inr (.inr (.inr (.inl ⟨hp, hc, rfl, rfl⟩))))
  · exact .inr (.inr (.inr (.inr (.inr ⟨hp, rfl⟩))))

theorem buildDue_iff (s : State) :
    s.buildDue = true ↔ s.busy = false ∧ s.ph = .idle ∧ s.cnt = 0#8 ∧ s.built = false := by
  simp [State.buildDue, State.buildLevel, and_assoc]

/-- `settle()` writes the tables only in a build, and a build is due when it does (43_table_builder rule R170). -/
theorem settle_tables (s : State) :
    ((settle s).M = s.M ∧ (settle s).W = s.W) ∨
    (s.buildDue = true ∧ settle s =
      { s with M := maskOf (snapshot s.T), W := waveOf (snapshot s.T), built := true, port := 0x00#8 }) := by
  rw [buildDue_iff]
  rcases settle_cases s with ⟨-, he⟩ | ⟨-, -, he⟩ | ⟨-, -, -, he⟩ | ⟨-, -, -, he⟩ | ⟨hb, hp, hc, hl, he⟩ |
    ⟨-, -, -, -, he⟩ | ⟨-, -, -, he⟩ | ⟨-, -, he⟩
  case inr.inr.inr.inr.inl => exact .inr ⟨⟨hb, hp, hc, hl⟩, he⟩
  all_goals exact .inl (by rw [he]; exact ⟨rfl, rfl⟩)

/-- A build that is due is made (43_table_builder rule R170). -/
theorem settle_of_buildDue {s : State} (h : s.buildDue = true) :
    settle s =
      { s with M := maskOf (snapshot s.T), W := waveOf (snapshot s.T), built := true, port := 0x00#8 } := by
  obtain ⟨hb, hp, hc, hl⟩ := (buildDue_iff s).mp h
  exact settle_idle_due hb hp hc hl

/-- All that `settle()` writes. -/
theorem settle_form (s : State) : settle s =
    { s with
      M := (settle s).M, W := (settle s).W, port := (settle s).port, idx := (settle s).idx,
      busy := (settle s).busy, built := (settle s).built, stepTimer := (settle s).stepTimer } :=
  settle_keeps (fun u => { u with
    M := (settle s).M, W := (settle s).W, port := (settle s).port, idx := (settle s).idx,
    busy := (settle s).busy, built := (settle s).built, stepTimer := (settle s).stepTimer }) s
    fun _ _ _ _ _ _ _ => rfl

/-- `settle()` reads neither the framer's registers nor `ng` nor the queue, and the Target Table only when a build is
due (44_output_driver rule R190, 43_table_builder rule R172). -/
theorem settle_with_unread (s : State) {T : Vector Byte 9} (ps : ProtocolState) (pch : Byte) (ng : Bool)
    (pending : List Stimulus) (hT : s.buildDue = true → snapshot T = snapshot s.T) :
    settle { s with T := T, ps := ps, pch := pch, ng := ng, pending := pending } =
      { settle s with T := T, ps := ps, pch := pch, ng := ng, pending := pending } := by
  rcases settle_cases s with ⟨hb, he⟩ | ⟨hb, hp, he⟩ | ⟨hb, hp, hr, he⟩ | ⟨hb, hp, hr, he⟩ | ⟨hb, hp, hc, hl, he⟩ |
    ⟨hb, hp, hc, hl, he⟩ | ⟨hb, hp, hc, he⟩ | ⟨hb, hp, he⟩ <;> rw [he]
  · exact settle_busy hb
  · exact settle_strobe hb hp
  · exact settle_playback_ready hb hp hr
  · exact settle_playback_waiting hb hp hr
  · rw [← hT ((buildDue_iff s).mpr ⟨hb, hp, hc, hl⟩)]
    exact settle_idle_due hb hp hc hl
  · exact settle_idle_built hb hp hc hl
  · exact settle_idle_counting hb hp hc
  · exact settle_illegal hb hp

/-- Settles O44. -/
theorem settleActsOnThePhase : Obligations.SettleActsOnThePhase := fun _ =>
  ⟨settle_busy, fun hb => ⟨settle_strobe hb, settle_playback_ready hb, settle_playback_waiting hb, settle_idle_due hb,
    settle_idle_built hb, settle_idle_counting hb, settle_illegal hb⟩⟩

/-- Settles O45. -/
theorem settleIsIdempotent : Obligations.SettleIsIdempotent := by
  refine ⟨settled_settle, fun s t b h => ?_⟩
  rw [handle_rx_of_settled (settled_settle s)] at h
  cases h
  simp

/-! ## The `STEP` event (44_output_driver rules R193, R194, R198) -/

theorem handle_step_free {s : State} (h : s.busy = false) : handle .step s = .next (settle s) := by
  rw [handle_step, stepHandler_free h, andThen_next]

theorem handle_step_going {s : State} (h : s.busy = true) (hi : s.idx.toNat < 250) :
    handle .step s = .next { s with port := s.W.read s.idx.toNat, idx := s.idx + 1#8, stepTimer := some 0 } := by
  rw [handle_step, stepHandler_going h hi, andThen_next]
  exact congrArg Host.Outcome.next (settle_busy h)

theorem handle_step_last {s : State} (h : s.busy = true) (hi : s.idx = 250#8) :
    handle .step s =
      .next (settle { s with port := s.W.read 250, busy := false, rdy := false, stepTimer := none }) := by
  rw [handle_step, stepHandler_last h hi, andThen_next]

theorem handle_step_beyond {s : State} (h : s.busy = true) (hi : 250 < s.idx.toNat) :
    handle .step s = .refused (.waveIndexBeyondTable s.idx) := by
  rw [handle_step, stepHandler_beyond h hi, andThen_refused]

/-- Everything a `STEP` event that completes can do. -/
theorem handle_step_cases {s t : State} (h : handle .step s = .next t) :
    (s.busy = false ∧ t = settle s) ∨
    (s.busy = true ∧ s.idx.toNat < 250 ∧
      t = { s with port := s.W.read s.idx.toNat, idx := s.idx + 1#8, stepTimer := some 0 }) ∨
    (s.busy = true ∧ s.idx = 250#8 ∧
      t = settle { s with port := s.W.read 250, busy := false, rdy := false, stepTimer := none }) := by
  rcases stepHandler_cases s with ⟨hb, -⟩ | ⟨hb, hi, -⟩ | ⟨hb, hi, -⟩ | ⟨hb, hi, -⟩
  · rw [handle_step_free hb] at h; cases h; exact .inl ⟨hb, rfl⟩
  · rw [handle_step_going hb hi] at h; cases h; exact .inr (.inl ⟨hb, hi, rfl⟩)
  · rw [handle_step_last hb hi] at h; cases h; exact .inr (.inr ⟨hb, hi, rfl⟩)
  · rw [handle_step_beyond hb hi] at h; cases h

/-- Settles O46. -/
theorem stepPlaysTheNextEntry : Obligations.StepPlaysTheNextEntry := fun _ =>
  ⟨fun hb hi => handle_step_going hb (BitVec.lt_def.mp hi), handle_step_last, handle_step_free⟩

/-- Settles O47, by what the event does. -/
theorem stepFrame : Obligations.StepFrame := by
  intro s t h
  rcases handle_step_cases h with ⟨hb, rfl⟩ | ⟨-, -, rfl⟩ | ⟨-, hi, rfl⟩
  · simp [State.aux, hb]
  · simp [State.aux]
  · simp [State.aux, hi]

/-- Settles O6: only `STEP` can stop, and its cases are told apart by `busy` and `idx`. -/
theorem eventStopsExactlyBeyondTheTable : Obligations.EventStopsExactlyBeyondTheTable := by
  intro e s
  have hbeyond : e = .step → s.busy = true → 250#8 < s.idx → handle e s = .refused (.waveIndexBeyondTable s.idx) := by
    rintro rfl hb hi
    exact handle_step_beyond hb (BitVec.lt_def.mp hi)
  refine ⟨⟨fun ⟨t, ht⟩ ⟨he, hb, hi⟩ => ?_, fun h => ?_⟩, hbeyond⟩
  · rw [hbeyond he hb hi] at ht
    cases ht
  · cases e with
    | reset | rx _ | tick => exact ⟨_, rfl⟩
    | step =>
      rcases stepHandler_cases s with ⟨hb, -⟩ | ⟨hb, hi, -⟩ | ⟨hb, hi, -⟩ | ⟨hb, hi, -⟩
      · exact ⟨_, handle_step_free hb⟩
      · exact ⟨_, handle_step_going hb hi⟩
      · exact ⟨_, handle_step_last hb hi⟩
      · exact absurd ⟨rfl, hb, BitVec.lt_def.mpr hi⟩ h

/-! ## `RESET` (70_reset_and_hazards rule R250) -/

/-- With every channel disabled every entry is as at reset (43_table_builder rule R174). -/
theorem waveOf_eq_nil {snap : Vector Byte 8} (h : maskOf snap = 0#8) : waveOf snap = [] := by
  simp [waveOf, waveEntry, h, unlistedByte]

theorem maskOf_resetValues : maskOf (snapshot State.resetValues.T) = 0#8 := by decide

/-- The first build finds every channel disabled, so it leaves the tables as they were. -/
theorem settle_resetValues : settle State.resetValues = State.reset := by
  rw [settle_idle_due rfl rfl rfl rfl, maskOf_resetValues, waveOf_eq_nil maskOf_resetValues]
  rfl

theorem handle_reset (s : State) : handle .reset s = .next { State.reset with pending := s.pending } := by
  rw [← settle_resetValues]
  exact congrArg Host.Outcome.next (settle_with_unread State.resetValues _ _ _ s.pending fun _ => rfl)

/-- Settles O1. -/
theorem resetEventGivesResetState : Obligations.ResetEventGivesResetState := ⟨settle_resetValues, handle_reset⟩

/-- Settles O2. -/
theorem resetValueOfEveryElement : Obligations.ResetValueOfEveryElement := by
  refine ⟨fun r hr => ?_, rfl, rfl⟩
  have hvalues : r = State.resetValues ∨ r = State.reset := by simpa using hr
  have hT : ∀ i : Fin 8, State.resetValues.T[i.val] = 251#8 := by decide
  rcases hvalues with rfl | rfl <;>
    exact ⟨hT, rfl, rfl, rfl, fun _ => rfl, rfl, rfl, rfl, rfl, rfl, rfl, rfl, rfl, rfl, rfl⟩

/-! ## What the handlers do not read -/

/-- All that the `RX` handler writes (41_command_framer rule R133). -/
theorem rxHandler_form (b : Byte) (s : State) : rxHandler b s =
    { s with
      T := (rxHandler b s).T, ps := (rxHandler b s).ps, pch := (rxHandler b s).pch, ng := (rxHandler b s).ng } :=
  rxHandler_keeps (fun u => { u with
    T := (rxHandler b s).T, ps := (rxHandler b s).ps, pch := (rxHandler b s).pch, ng := (rxHandler b s).ng })
    b s fun _ _ _ _ => rfl

theorem ps_cases (s : State) : s.ps = .awaitingChannel ∨ s.ps = .awaitingValue ∨
    (s.ps ≠ .awaitingChannel ∧ s.ps ≠ .awaitingValue) := by
  cases s.ps <;> decide

theorem ph_cases (s : State) : s.ph = .strobe ∨ s.ph = .playback ∨ s.ph = .idle ∨ s.ph = .illegal := by
  cases s.ph <;> decide

theorem isAnomaly_rx_resetByte (s : State) : isAnomaly (.rx 252#8) s = false := rfl

theorem isAnomaly_rx_of_legal {s : State} (b : Byte) (h : s.ps = .awaitingChannel ∨ s.ps = .awaitingValue) :
    isAnomaly (.rx b) s = false := by
  rcases h with h | h <;> simp [isAnomaly, h]

theorem isAnomaly_rx_of_illegal {s : State} {b : Byte} (hb : b ≠ 252#8) (h : s.ps ≠ .awaitingChannel)
    (h' : s.ps ≠ .awaitingValue) : isAnomaly (.rx b) s = true := by
  simp [isAnomaly, isDataByte, hb, h, h']

/-- The `RX` handler reads only the framer's registers and the Target Table; it sets `ng` on an anomaly
(41_command_framer rules R130, R133). -/
theorem rxHandler_with_unread (b : Byte) (s : State) (M : Byte) (W : Memory) (ph : PhaseState) (cnt : Byte)
    (rdy ng : Bool) (port idx : Byte) (busy built : Bool) (stepTimer : Option Nat) :
    rxHandler b { s with
      M := M, W := W, ph := ph, cnt := cnt, rdy := rdy, ng := ng, port := port, idx := idx, busy := busy,
      built := built, stepTimer := stepTimer } =
    { rxHandler b s with
      M := M, W := W, ph := ph, cnt := cnt, rdy := rdy, ng := ng || isAnomaly (.rx b) s, port := port, idx := idx,
      busy := busy, built := built, stepTimer := stepTimer } := by
  by_cases hb : b = 252#8
  · rw [hb, rxHandler_resetByte, rxHandler_resetByte, isAnomaly_rx_resetByte, Bool.or_false]
  · rcases ps_cases s with hp | hp | ⟨hchannel, hvalue⟩
    · rw [rxHandler_channel (s := s) hb hp, isAnomaly_rx_of_legal b (.inl hp), Bool.or_false]
      exact rxHandler_channel hb hp
    · rw [rxHandler_value (s := s) hb hp, isAnomaly_rx_of_legal b (.inr hp), Bool.or_false]
      refine (rxHandler_value hb ?_).trans ?_
      · exact hp
      · unfold State.writeTarget
        dsimp only
        cases targetIndex s.pch <;> rfl
    · rw [rxHandler_illegal (s := s) hb hchannel hvalue, isAnomaly_rx_of_illegal hb hchannel hvalue, Bool.or_true]
      exact rxHandler_illegal hb hchannel hvalue

theorem rxHandler_ng (b : Byte) (s : State) : (rxHandler b s).ng = (s.ng || isAnomaly (.rx b) s) :=
  congrArg State.ng (rxHandler_with_unread b s s.M s.W s.ph s.cnt s.rdy s.ng s.port s.idx s.busy s.built s.stepTimer)

/-- What `TICK` writes, the `RX` handler does not read. -/
theorem rxHandler_with_phase (b : Byte) (s : State) (ph : PhaseState) (cnt : Byte) (rdy ng : Bool) :
    rxHandler b { s with ph := ph, cnt := cnt, rdy := rdy, ng := ng } =
      { rxHandler b s with ph := ph, cnt := cnt, rdy := rdy, ng := ng || isAnomaly (.rx b) s } :=
  (rxHandler_with_unread b s s.M s.W ph cnt rdy ng s.port s.idx s.busy s.built s.stepTimer).trans (by simp)

/-- What `settle()` writes, the `RX` handler does not read. -/
theorem rxHandler_with_driver (b : Byte) (s : State) (M : Byte) (W : Memory) (port idx : Byte) (busy built : Bool)
    (stepTimer : Option Nat) :
    rxHandler b { s with
      M := M, W := W, port := port, idx := idx, busy := busy, built := built, stepTimer := stepTimer } =
    { rxHandler b s with
      M := M, W := W, port := port, idx := idx, busy := busy, built := built, stepTimer := stepTimer } :=
  (rxHandler_with_unread b s M W s.ph s.cnt s.rdy s.ng port idx busy built stepTimer).trans
    (by simp [← rxHandler_ng])

theorem isAnomaly_tick_of_legal {s : State} (h : s.ph ≠ .illegal) : isAnomaly .tick s = false := by
  simp [isAnomaly, h]

theorem isAnomaly_tick_of_illegal {s : State} (h : s.ph = .illegal) : isAnomaly .tick s = true := by
  simp [isAnomaly, h]

/-- The `TICK` handler reads only the phase, the counter and the flag; it sets `ng` on an anomaly
(42_phase_sequencer rules R154, R156). -/
theorem tickHandler_with_unread (s : State) (T : Vector Byte 9) (ps : ProtocolState) (pch : Byte) (ng : Bool)
    (port idx : Byte) (stepTimer : Option Nat) :
    tickHandler { s with
      T := T, ps := ps, pch := pch, ng := ng, port := port, idx := idx, stepTimer := stepTimer } =
    { tickHandler s with
      T := T, ps := ps, pch := pch, ng := ng || isAnomaly .tick s, port := port, idx := idx,
      stepTimer := stepTimer } := by
  rcases ph_cases s with hp | hp | hp | hp
  · rw [tickHandler_strobe (s := s) hp, isAnomaly_tick_of_legal (by simp [hp]), Bool.or_false]
    exact tickHandler_strobe hp
  · rw [tickHandler_playback (s := s) hp, isAnomaly_tick_of_legal (by simp [hp]), Bool.or_false]
    exact tickHandler_playback hp
  · rw [isAnomaly_tick_of_legal (by simp [hp]), Bool.or_false]
    cases ho : idleOver (s.cnt + 1#8) with
    | true => rw [tickHandler_idle_last (s := s) hp ho]; exact tickHandler_idle_last hp ho
    | false => rw [tickHandler_idle_counting (s := s) hp ho]; exact tickHandler_idle_counting hp ho
  · rw [tickHandler_illegal (s := s) hp, isAnomaly_tick_of_illegal hp, Bool.or_true]
    exact tickHandler_illegal hp

theorem tickHandler_ng (s : State) : (tickHandler s).ng = (s.ng || isAnomaly .tick s) :=
  congrArg State.ng (tickHandler_with_unread s s.T s.ps s.pch s.ng s.port s.idx s.stepTimer)

/-- What `RX` writes, the `TICK` handler does not read. -/
theorem tickHandler_with_framer (s : State) (T : Vector Byte 9) (ps : ProtocolState) (pch : Byte) (ng : Bool) :
    tickHandler { s with T := T, ps := ps, pch := pch, ng := ng } =
      { tickHandler s with T := T, ps := ps, pch := pch, ng := ng || isAnomaly .tick s } :=
  (tickHandler_with_unread s T ps pch ng s.port s.idx s.stepTimer).trans (by simp)

/-- What `STEP` writes in a playback, the `TICK` handler does not read. -/
theorem tickHandler_with_driver (s : State) (port idx : Byte) (stepTimer : Option Nat) :
    tickHandler { s with port := port, idx := idx, stepTimer := stepTimer } =
      { tickHandler s with port := port, idx := idx, stepTimer := stepTimer } :=
  (tickHandler_with_unread s s.T s.ps s.pch s.ng port idx stepTimer).trans (by simp [← tickHandler_ng])

/-- The `STEP` handler does not read `ng`. -/
theorem stepHandler_with_ng (s : State) (ng : Bool) :
    stepHandler { s with ng := ng } = andThen (stepHandler s) fun t => .next { t with ng := ng } := by
  rcases stepHandler_cases s with ⟨hb, he⟩ | ⟨hb, hi, he⟩ | ⟨hb, hi, he⟩ | ⟨hb, hi, he⟩ <;> rw [he]
  · exact stepHandler_free hb
  · exact stepHandler_going hb hi
  · exact stepHandler_last hb hi
  · exact stepHandler_beyond hb hi

/-! ## The diagnostic flag (10_state rule R36) -/

theorem settle_with_ng (s : State) (ng : Bool) : settle { s with ng := ng } = { settle s with ng := ng } := by
  refine (settle_with_unread s s.ps s.pch ng s.pending fun _ => rfl).trans ?_
  rw [← settle_T, ← settle_ps, ← settle_pch, ← settle_pending]

/-- An event started with another `ng` differs in `ng` alone, which is then the one it started with or set by the
event. -/
theorem handle_with_ng (e : Event) (s : State) (ng : Bool) :
    handle e { s with ng := ng } =
      andThen (handle e s) fun t => .next { t with ng := decide (e ≠ .reset) && (ng || isAnomaly e s) } := by
  cases e with
  | reset => rw [handle_reset, handle_reset]; rfl
  | rx b =>
    have hrx : rxHandler b { s with ng := ng } = { rxHandler b s with ng := ng || isAnomaly (.rx b) s }  :=
      (rxHandler_with_phase b s s.ph s.cnt s.rdy ng).trans (by simp)
    rw [handle_rx, hrx, settle_with_ng]
    simp
  | tick =>
    have htick : tickHandler { s with ng := ng } = { tickHandler s with ng := ng || isAnomaly .tick s }  :=
      (tickHandler_with_framer s s.T s.ps s.pch ng).trans (by simp)
    rw [handle_tick, htick, settle_with_ng]
    simp
  | step =>
    rw [handle_step, handle_step, stepHandler_with_ng]
    cases stepHandler s with
    | next t => simp [andThen, settle_with_ng, isAnomaly]
    | fault r => cases r
    | refused r => rfl

/-- Settles O53. -/
theorem diagnosticFlagIsNeverRead : Obligations.DiagnosticFlagIsNeverRead := by
  intro e s ng
  refine ⟨fun t h => ?_, fun r h => ?_⟩ <;> rw [handle_with_ng, h]
  · rfl
  · rfl

/-- Settles O52: it is what the event makes of the flag's own value. -/
theorem diagnosticFlagIsSticky : Obligations.DiagnosticFlagIsSticky := by
  intro e s t h
  have hng := handle_with_ng e s s.ng
  rw [h, andThen_next] at hng
  exact congrArg State.ng (Host.Outcome.next.inj hng)

end Sys2Proof.Machine
end

section
/-! PROOFS. Clock cycles and simultaneous events: the order of the strobes, which events commute, and the step timer
(60_exceptions rule R229, 44_output_driver rule R203). -/

namespace Sys2Proof.Machine

/-! ## The strobes of a clock cycle -/

/-- An event whose strobe may be asserted or not. -/
theorem runEvents_guarded (p : Bool) (e : Event) (s : State) :
    runEvents (if p then [e] else []) s = if p then handle e s else .next s := by
  cases p
  · rfl
  · simp only [if_true, runEvents_cons]
    cases handle e s <;> rfl

theorem andThen_assoc (o : Host.Outcome State Fault Refusal) (f g : State → Host.Outcome State Fault Refusal) :
    andThen (andThen o f) g = andThen o fun s => andThen (f s) g := by
  cases o <;> rfl

theorem andThen_next_right (o : Host.Outcome State Fault Refusal) : andThen o .next = o := by
  cases o <;> rfl

/-- Settles O54. -/
theorem strobesOfACycleAreOrdered : Obligations.StrobesOfACycleAreOrdered := by
  intro c s
  refine ⟨fun h => ?_, fun h => ?_⟩
  · rw [clockCycle, arbitrate, if_pos h, runEvents_cons, handle_reset]
    rfl
  · rw [clockCycle, arbitrate, if_neg (by simp [h]), runEvents_append, runEvents_append, runEvents_guarded, andThen_assoc]
    refine congrArg (andThen _) (funext fun u => ?_)
    rw [runEvents_guarded]
    exact congrArg (andThen _) (funext fun v => runEvents_guarded _ .step v)

/-! ## `TICK` and `STEP` -/

theorem runEvents_pair (e e' : Event) (s : State) : runEvents [e, e'] s = andThen (handle e s) (handle e') := by
  rw [runEvents_cons]
  refine congrArg (andThen _) (funext fun u => ?_)
  exact runEvents_guarded true e' u

theorem handle_tick_busy {s : State} (h : s.busy = true) : handle .tick s = .next (tickHandler s) := by
  rw [handle_tick, settle_busy ((tickHandler_busy s).trans h)]

/-- During a playback `TICK` and `STEP` write different fields and read none of each other's. -/
theorem tick_step_commute_going {s : State} (hb : s.busy = true) (hi : s.idx.toNat < 250) :
    runEvents [.tick, .step] s = runEvents [.step, .tick] s := by
  have hb' : (tickHandler s).busy = true := (tickHandler_busy s).trans hb
  have hi' : (tickHandler s).idx.toNat < 250 := by rw [tickHandler_idx]; exact hi
  rw [runEvents_pair, runEvents_pair, handle_tick_busy hb, handle_step_going hb hi, andThen_next, andThen_next,
    handle_step_going hb' hi']
  refine Eq.trans (congrArg Host.Outcome.next ?_) (handle_tick_busy (by exact hb)).symm
  exact Eq.trans (by simp) (tickHandler_with_driver s _ _ _).symm

/-- At the end of a playback that has kept its time, both orders end in Idle with the build of the cycle. -/
theorem tick_step_commute_last {s : State} (hb : s.busy = true) (hi : s.idx = 250#8) (hp : s.ph = .playback)
    (hl : s.built = false) : runEvents [.tick, .step] s = runEvents [.step, .tick] s := by
  have htick : runEvents [.tick, .step] s = .next (settle
      { s with ph := .idle, cnt := 0#8, port := s.W.read 250, busy := false, rdy := false, stepTimer := none }) := by
    rw [runEvents_pair, handle_tick_busy hb, tickHandler_playback hp, andThen_next]
    exact handle_step_last hb hi
  have hstep : runEvents [.step, .tick] s = .next (settle
      { s with
        ph := .idle, cnt := 0#8, port := s.W.read 250, busy := false, built := false, rdy := false,
        stepTimer := none }) := by
    rw [runEvents_pair, handle_step_last hb hi, andThen_next]
    refine (congrArg (handle .tick) (settle_playback_waiting (by rfl) (by exact hp) (by rfl))).trans ?_
    exact congrArg (Host.Outcome.next ∘ settle) (tickHandler_playback (by exact hp))
  rw [htick, hstep, ← hl]

/-- Settles O55, by whether the playback goes on or ends. -/
theorem tickAndStepCommute : Obligations.TickAndStepCommute := by
  intro s hb hi hend
  rcases Nat.lt_or_eq_of_le (BitVec.le_def.mp hi) with hlt | heq
  · exact tick_step_commute_going hb hlt
  · have h250 : s.idx = 250#8 := BitVec.eq_of_toNat_eq heq
    obtain ⟨hp, hl⟩ := hend h250
    exact tick_step_commute_last hb h250 hp hl

/-! ## `RX` and `TICK` -/

/-- All that the `TICK` handler writes (42_phase_sequencer rule R156). -/
theorem tickHandler_form (s : State) : tickHandler s =
    { s with
      ph := (tickHandler s).ph, cnt := (tickHandler s).cnt, rdy := (tickHandler s).rdy, ng := (tickHandler s).ng } :=
  tickNeverTouchesTheCommands.1 s

/-- The two handlers commute: each reads nothing the other writes, and either can set `ng`. -/
theorem rxHandler_tickHandler (b : Byte) (s : State) : rxHandler b (tickHandler s) = tickHandler (rxHandler b s) :=
  calc rxHandler b (tickHandler s)
    _ = { rxHandler b s with
          ph := (tickHandler s).ph, cnt := (tickHandler s).cnt, rdy := (tickHandler s).rdy,
          ng := (tickHandler s).ng || isAnomaly (.rx b) s } := by
      conv_lhs => rw [tickHandler_form]
      exact rxHandler_with_phase b s _ _ _ _
    _ = { tickHandler s with
          T := (rxHandler b s).T, ps := (rxHandler b s).ps, pch := (rxHandler b s).pch,
          ng := (rxHandler b s).ng || isAnomaly .tick s } := by
      simp [rxHandler_ng, tickHandler_ng, Bool.or_right_comm]
    _ = tickHandler (rxHandler b s) := by
      conv_rhs => rw [rxHandler_form]
      exact (tickHandler_with_framer s _ _ _ _).symm

/-- A byte handled before or after `settle()` makes no difference unless a build is due. -/
theorem settle_rxHandler_of_not_due {s : State} (b : Byte) (h : s.buildDue = false) :
    settle (rxHandler b s) = rxHandler b (settle s) :=
  calc settle (rxHandler b s)
    _ = { settle s with
          T := (rxHandler b s).T, ps := (rxHandler b s).ps, pch := (rxHandler b s).pch, ng := (rxHandler b s).ng } := by
      conv_lhs => rw [rxHandler_form]
      refine (settle_with_unread s _ _ _ s.pending fun hdue => ?_).trans (by simp)
      rw [h] at hdue
      cases hdue
    _ = { rxHandler b s with
          M := (settle s).M, W := (settle s).W, port := (settle s).port, idx := (settle s).idx,
          busy := (settle s).busy, built := (settle s).built, stepTimer := (settle s).stepTimer } := by simp
    _ = rxHandler b (settle s) := by
      conv_rhs => rw [settle_form]
      exact (rxHandler_with_driver b s _ _ _ _ _ _ _).symm

/-- Settles O56: both orders come down to the `TICK` handler with the byte handled before or after its `settle()`. -/
theorem receiveAndTickCommute : Obligations.ReceiveAndTickCommute := by
  intro s b hs
  have hrx : runEvents [.rx b, .tick] s = .next (settle (rxHandler b (tickHandler s))) := by
    rw [runEvents_pair, handle_rx_of_settled hs, andThen_next, handle_tick, rxHandler_tickHandler]
  have htick : runEvents [.tick, .rx b] s = .next (rxHandler b (settle (tickHandler s))) := by
    rw [runEvents_pair, handle_tick, andThen_next, handle_rx_of_settled (settled_settle _)]
  refine ⟨fun h => ?_, fun h => ⟨⟨_, hrx, ?_⟩, ⟨_, htick, ?_⟩⟩⟩
  · rw [hrx, htick, settle_rxHandler_of_not_due b h]
  · have hdue : (rxHandler b (tickHandler s)).buildDue = true := by simpa [buildDue_iff] using h
    rw [settle_of_buildDue hdue, rxHandler_tickHandler, tickHandler_T]
    exact ⟨rfl, rfl⟩
  · rw [rxHandler_M, rxHandler_W, settle_of_buildDue h, tickHandler_T]
    exact ⟨rfl, rfl⟩

/-! ## The step timer (44_output_driver rule R203) -/

/-- A clock cycle without strobes on the pins is the expiry of the step timer, or passes for it alone. -/
theorem clockCycle_noStrobes (s : State) :
    clockCycle { rst := false, rxValid := false, rxData := 0#8, tick := false } s =
      if s.timerExpires then handle .step s.advanceTimer else .next s.advanceTimer :=
  runEvents_guarded s.timerExpires .step s.advanceTimer

/-- The last of some idle cycles, taken off the end. -/
theorem idleCycles_succ (n : Nat) (s : State) :
    idleCycles (n + 1) s =
      andThen (idleCycles n s) (clockCycle { rst := false, rxValid := false, rxData := 0#8, tick := false }) := by
  induction n generalizing s with
  | zero => exact andThen_next_right (clockCycle _ s)
  | succ n ih =>
    rw [idleCycles, idleCycles, andThen_assoc]
    exact congrArg (andThen _) (funext ih)

/-- A running timer expires with the cycle that completes its period. -/
theorem timerExpires_playing {s : State} (hb : s.busy = true) (n : Nat) :
    State.timerExpires { s with stepTimer := some n } = decide (Config.stepCycles ≤ n + 1) := by
  simp [State.timerExpires, hb]

/-- A `STEP` in a playback loads or stops the timer, whatever it has counted. -/
theorem handle_step_with_timer {s : State} (hb : s.busy = true) (hi : s.idx ≤ 250#8) (timer : Option Nat) :
    handle .step { s with stepTimer := timer } = handle .step s := by
  rcases Nat.lt_or_eq_of_le (BitVec.le_def.mp hi) with hlt | heq
  · rw [handle_step_going hb hlt]
    exact handle_step_going hb hlt
  · rw [handle_step_last hb (BitVec.eq_of_toNat_eq heq)]
    exact handle_step_last hb (BitVec.eq_of_toNat_eq heq)

/-- Before the period is over the timer only counts. -/
theorem idleCycles_counting {s : State} (hb : s.busy = true) (ht : s.stepTimer = some 0) {n : Nat}
    (hn : n < max 1 Config.stepCycles) : idleCycles n s = .next { s with stepTimer := some n } := by
  induction n with
  | zero => rw [idleCycles, ← ht]
  | succ n ih =>
    have hne : State.timerExpires { s with stepTimer := some n } = false := by
      rw [timerExpires_playing hb n]
      exact decide_eq_false (by omega)
    rw [idleCycles_succ, ih (by omega), andThen_next, clockCycle_noStrobes, hne]
    rfl

/-- Settles O57: the period is one cycle more than the cycles in which the timer only counts. -/
theorem stepTimerExpiresAfterItsPeriod : Obligations.StepTimerExpiresAfterItsPeriod := by
  refine ⟨fun s hb ht hi => ⟨fun n => idleCycles_counting hb ht, ?_⟩, fun s hb => ?_⟩
  · obtain ⟨n, hn⟩ : ∃ n, max 1 Config.stepCycles = n + 1 := ⟨max 1 Config.stepCycles - 1, by omega⟩
    have he : State.timerExpires { s with stepTimer := some n } = true := by
      rw [timerExpires_playing hb n]
      exact decide_eq_true (by omega)
    rw [hn, idleCycles_succ, idleCycles_counting hb ht (by omega), andThen_next, clockCycle_noStrobes, he]
    exact handle_step_with_timer hb hi (some (n + 1))
  · unfold State.timerExpires
    rw [hb]
    cases s.stepTimer <;> rfl

end Sys2Proof.Machine
end

section
/-! PROOFS. The queue of stimuli: which stimulus a step takes and what it leaves queued (10_state section 9). -/

namespace Sys2Proof.Machine

theorem step_of_pending {s : State} {x : Stimulus} {queue : List Stimulus} (h : s.pending = x :: queue) :
    step s = deliver x { s with pending := queue } := by
  rw [step, h]

theorem step_of_pending_nil {s : State} (h : s.pending = []) : step s = .next s := by
  rw [step, h]

/-- The bytes left of a frame stand first in the queue, if there are any (log 2). -/
theorem requeue_eq (s : State) (left : List Byte) :
    s.requeue left = { s with pending := if left = [] then s.pending else .frame left :: s.pending } := by
  cases left <;> rfl

theorem deliverFrame_of_command {bytes left : List Byte} {i : Instr} (h : decode bytes = .command i left) (s : State) :
    deliverFrame bytes s = exec i (s.requeue left) := by
  rw [deliverFrame, h]

theorem deliverFrame_channelByteAlone {c : Byte} (hc : c ≠ 252#8) (s : State) :
    deliverFrame [c] s = handle (.rx c) s := by
  rw [deliverFrame, decode_channelByteAlone hc]

/-- Settles O13. -/
theorem stepRunsTheDecodedCommand : Obligations.StepRunsTheDecodedCommand := by
  intro s bytes left queue i hq hd
  rw [step_of_pending hq, deliver, deliverFrame_of_command hd, requeue_eq]

/-- Settles O14. -/
theorem stepTakesTheNextStimulus : Obligations.StepTakesTheNextStimulus := by
  refine fun s queue => ⟨fun e h => ?_, fun c h => ?_, fun c hc h => ?_, fun h => ?_, step_of_pending_nil⟩ <;>
    rw [step_of_pending h, deliver]
  · exact deliverFrame_channelByteAlone hc _
  · rfl

/-- Settles O15: the word's bytes are the frame the next step takes. -/
theorem placedWordIsRunNext : Obligations.PlacedWordIsRunNext := by
  intro s nbits w i left hd
  refine ⟨by rw [decodeTableWord, hd], ?_⟩
  exact stepRunsTheDecodedCommand (s.withFetchWord nbits w) (tableBytes nbits w) left s.pending i rfl hd

end Sys2Proof.Machine
end

section
/-! PROOFS. The tables: their shape, the order of their writes, and when they change (43_table_builder). -/

namespace Sys2Proof.Machine

/-! ## The shape of a built table (43_table_builder rule R179) -/

theorem getLsbD_unlistedByte (i : Nat) : unlistedByte.getLsbD i = false := by simp [unlistedByte]

/-- Every bit of a built table, in and beyond the table. -/
theorem getLsbD_read_waveOf (snap : Vector Byte 8) (t i : Nat) (hi : i < 8) :
    ((waveOf snap).read t).getLsbD i = (decide (t < snap[i].toNat) && decide (snap[i] ≤ 250#8)) := by
  rw [read_waveOf]
  by_cases ht : t < 251
  · rw [if_pos ht, getLsbD_waveEntry snap t i hi]
    rfl
  · have hoff : ¬ (t < snap[i].toNat ∧ snap[i] ≤ 250#8) := fun ⟨hlt, hle⟩ => by bv_omega
    rw [if_neg ht, getLsbD_unlistedByte, ← Bool.decide_and, decide_eq_false hoff]

/-- A word lies within another when each of its bits does. -/
theorem and_eq_self_of_bits {x y : Byte} (h : ∀ i < 8, x.getLsbD i = true → y.getLsbD i = true) : x &&& y = x := by
  apply BitVec.eq_of_getLsbD_eq
  intro i hi
  rw [BitVec.getLsbD_and]
  cases hx : x.getLsbD i with
  | false => rfl
  | true => rw [h i hi hx, Bool.and_self]

/-- Bits only fall as the time-step rises (43_table_builder rule R179 (b)). -/
theorem read_waveOf_succ_and (snap : Vector Byte 8) (t : Nat) :
    (waveOf snap).read (t + 1) &&& (waveOf snap).read t = (waveOf snap).read (t + 1) := by
  refine and_eq_self_of_bits fun i hi => ?_
  rw [getLsbD_read_waveOf snap _ i hi, getLsbD_read_waveOf snap _ i hi, ← Bool.decide_and, ← Bool.decide_and,
    decide_eq_true_eq, decide_eq_true_eq]
  exact fun ⟨hlt, hle⟩ => ⟨by omega, hle⟩

theorem read_waveOf_last (snap : Vector Byte 8) : (waveOf snap).read 250 = 0#8 := by
  rw [read_waveOf, if_pos (by omega), waveEntry_last]

/-- Every entry lies within the mask (43_table_builder rule R179 (f)). -/
theorem read_waveOf_and_maskOf (snap : Vector Byte 8) (t : Nat) :
    (waveOf snap).read t &&& maskOf snap = (waveOf snap).read t := by
  refine and_eq_self_of_bits fun i hi => ?_
  rw [getLsbD_read_waveOf snap t i hi, getLsbD_maskOf snap i hi, Bool.and_eq_true]
  exact fun h => h.2

/-- A channel outside the mask is off in every entry (43_table_builder rule R179 (e)). -/
theorem bit_off_outside_mask {snap : Vector Byte 8} {i : Nat} (h : (maskOf snap).getLsbD i = false) (t : Nat) :
    ((waveOf snap).read t).getLsbD i = false := by
  rw [← read_waveOf_and_maskOf, BitVec.getLsbD_and, h, Bool.and_false]

/-- Settles O36. -/
theorem shapeOfEveryBuiltTable : Obligations.ShapeOfEveryBuiltTable := by
  intro s snap ⟨hM, hW⟩
  rw [hM, hW]
  refine ⟨fun i hle t _ => ?_, fun t _ => read_waveOf_succ_and snap t, read_waveOf_last snap, fun i => ?_,
    fun i => bit_off_outside_mask, read_waveOf_and_maskOf snap⟩
  · rw [getLsbD_read_waveOf snap t _ i.isLt, decide_eq_true hle, Bool.and_true]
  · rw [getLsbD_read_waveOf snap 0 _ i.isLt]
    congr 1

/-! ## The order of the writes (43_table_builder rule R175) -/

theorem wf_foldl_write (e : Nat → Byte) (order : List Nat) {m : Memory} (h : m.wf = true) :
    (order.foldl (fun m t => m.write t (e t)) m).wf = true := by
  induction order generalizing m with
  | nil => exact h
  | cons t order ih => exact ih (wf_write t (e t) h)

/-- Writes leave each index they name with its entry, whenever it is written, and the others as they were. -/
theorem read_foldl_write (e : Nat → Byte) (order : List Nat) {m : Memory} (h : m.wf = true) (a : Nat) :
    (order.foldl (fun m t => m.write t (e t)) m).read a = if a ∈ order then e a else m.read a := by
  induction order generalizing m with
  | nil => rfl
  | cons t order ih =>
    rw [List.foldl_cons, ih (wf_write t (e t) h)]
    by_cases ha : a ∈ order
    · rw [if_pos ha, if_pos (List.mem_cons_of_mem t ha)]
    · rw [if_neg ha]
      by_cases hat : a = t
      · subst hat
        rw [if_pos List.mem_cons_self, read_write_same (e a) h]
      · rw [if_neg (by simp [hat, ha]), read_write_other (e t) hat]

/-- A table within the space lists nothing beyond it (20_memory rule R60). -/
theorem read_beyond {m : Memory} (h : m.inSpace = true) {a : Nat} (ha : 251 ≤ a) : m.read a = unlistedByte := by
  induction m with
  | nil => rfl
  | cons cell m ih =>
    obtain ⟨k, v⟩ := cell
    obtain ⟨hk, hm⟩ : k < 251 ∧ Memory.inSpace m = true := by simpa [Memory.inSpace, inWaveSpace] using h
    rw [read_cons, if_neg (by omega), ih hm]

/-- The spec's loop is the writes in falling order. -/
theorem waveLoop_eq_foldl (snap : Vector Byte 8) (n : Nat) (m : Memory) :
    waveLoop snap n m = (List.range n).reverse.foldl (fun m t => m.write t (waveEntry snap t)) m := by
  induction n generalizing m with
  | zero => rfl
  | succ n ih => rw [waveLoop, ih, List.range_succ, List.reverse_append, List.reverse_singleton, List.singleton_append,
      List.foldl_cons]

/-- Settles O38: canonical tables are equal when all their reads are, and the reads do not tell the order. -/
theorem writeOrderIsNotObservable : Obligations.WriteOrderIsNotObservable := by
  intro snap m hwf hspace
  have hany : ∀ order : List Nat, order.Perm (List.range 251) →
      order.foldl (fun m t => m.write t (waveEntry snap t)) m = waveOf snap := by
    intro order hperm
    refine ext_of_read (wf_foldl_write (waveEntry snap) order hwf) (wf_waveOf snap) fun a => ?_
    have hmem : a ∈ order ↔ a < 251 := hperm.mem_iff.trans List.mem_range
    rw [read_foldl_write (waveEntry snap) order hwf, read_waveOf]
    by_cases ha : a < 251
    · rw [if_pos (hmem.mpr ha), if_pos ha]
    · rw [if_neg (mt hmem.mp ha), if_neg ha, read_beyond hspace (by omega)]
  exact ⟨hany, (waveLoop_eq_foldl snap 251 m).trans (hany _ (List.reverse_perm _))⟩

/-! ## When the tables change (43_table_builder rules R170, R171) -/

theorem stepHandler_keeps_tables {s t : State} (h : stepHandler s = .next t) : t.M = s.M ∧ t.W = s.W := by
  rcases stepHandler_cases s with ⟨-, he⟩ | ⟨-, -, he⟩ | ⟨-, -, he⟩ | ⟨-, -, he⟩ <;> rw [he] at h <;> cases h <;>
    exact ⟨rfl, rfl⟩

/-- Every event but `RESET` is its handler, which leaves the tables, and `settle()`. -/
theorem handle_eq_settle {e : Event} {s t : State} (hr : e ≠ .reset) (h : handle e s = .next t) :
    ∃ u, u.M = s.M ∧ u.W = s.W ∧ t = settle u := by
  cases e with
  | reset => exact absurd rfl hr
  | rx b => cases h; exact ⟨_, rxHandler_M b s, rxHandler_W b s, rfl⟩
  | tick => cases h; exact ⟨_, tickHandler_M s, tickHandler_W s, rfl⟩
  | step =>
    rw [handle_step] at h
    obtain ⟨u, hu, hut⟩ := andThen_eq_next.mp h
    cases hut
    obtain ⟨hM, hW⟩ := stepHandler_keeps_tables hu
    exact ⟨u, hM, hW, rfl⟩

/-- Settles O39: `settle()` alone writes the tables, in a build; `RESET` ends in one too. -/
theorem tablesChangeOnlyByABuild : Obligations.TablesChangeOnlyByABuild := by
  intro e s t h
  by_cases hr : e = .reset
  · subst hr
    rw [handle_reset] at h
    cases h
    refine .inr ⟨maskOf_resetValues.symm, (waveOf_eq_nil maskOf_resetValues).symm, rfl, rfl, rfl, rfl⟩
  · obtain ⟨u, hM, hW, rfl⟩ := handle_eq_settle hr h
    rcases settle_tables u with ⟨hM', hW'⟩ | ⟨hdue, he⟩
    · exact .inl ⟨hM'.trans hM, hW'.trans hW⟩
    · obtain ⟨hb, hp, hc, -⟩ := (buildDue_iff u).mp hdue
      rw [he]
      exact .inr ⟨rfl, rfl, hp, hc, rfl, hb⟩

/-- An event that ends outside the build level leaves the tables. -/
theorem handle_keeps_tables {e : Event} {s t : State} (h : handle e s = .next t) (hl : (t.ph, t.cnt) ≠ (.idle, 0#8)) :
    t.M = s.M ∧ t.W = s.W := by
  rcases tablesChangeOnlyByABuild e s t h with hkept | ⟨-, -, hp, hc, -, -⟩
  · exact hkept
  · exact absurd (Prod.ext hp hc) hl

/-! ## Runs of events -/

/-- A property indexed by how often an event `c` has come, which `c` takes from each index to the next and the other
events of the run keep, holds after the run. -/
theorem runEvents_counting {P : Nat → State → Prop} {c : Event} {es : List Event} {N : Nat}
    (hc : ∀ n < N, ∀ u v, P n u → handle c u = .next v → P (n + 1) v)
    (ho : ∀ e ∈ es, e ≠ c → ∀ n ≤ N, ∀ u v, P n u → handle e u = .next v → P n v)
    {s t : State} (h0 : P 0 s) (hN : es.count c ≤ N) (h : runEvents es s = .next t) : P (es.count c) t := by
  induction es using List.reverseRecOn generalizing t with
  | nil => cases h; exact h0
  | append_singleton es e ih =>
    obtain ⟨u, hu, he⟩ := runEvents_concat_eq_next.mp h
    rw [List.count_append] at hN ⊢
    have hP : P (es.count c) u :=
      ih (fun e he' => ho e (List.mem_append_left _ he')) (by omega) hu
    by_cases hec : e = c
    · subst hec
      rw [List.count_singleton_self] at hN ⊢
      exact hc _ (by omega) u t hP he
    · rw [List.count_singleton, if_neg (by simpa using hec), Nat.add_zero]
      exact ho e (List.mem_append_right _ List.mem_cons_self) hec _ (by omega) u t hP he

/-- A property that every event of a run keeps holds after the run. -/
theorem runEvents_keeps {P : State → Prop} {es : List Event}
    (hk : ∀ e ∈ es, ∀ u v, P u → handle e u = .next v → P v) {s t : State} (h0 : P s)
    (h : runEvents es s = .next t) : P t := by
  induction es generalizing s with
  | nil => cases h; exact h0
  | cons e es ih =>
    obtain ⟨u, hu, ht⟩ := andThen_eq_next.mp h
    exact ih (fun e he => hk e (List.mem_cons_of_mem _ he)) (hk e List.mem_cons_self s u h0 hu) ht

/-- In the tick of the build, after it, with the tables `M` and `W` built (43_table_builder rule R171). -/
structure BuildDone (M : Byte) (W : Memory) (s : State) : Prop where
  free : s.busy = false
  idle : s.ph = .idle
  entry : s.cnt = 0#8
  latched : s.built = true
  mask : s.M = M
  wave : s.W = W

theorem buildDone_settle {M : Byte} {W : Memory} {s : State} (h : BuildDone M W s) : BuildDone M W (settle s) := by
  rw [settle_idle_built h.free h.idle h.entry h.latched]
  exact { h with }

/-- The latch keeps a second build out until the next `TICK` (43_table_builder rule R171). -/
theorem handle_keeps_buildDone {M : Byte} {W : Memory} {e : Event} (he : e = .step ∨ ∃ b, e = .rx b) {s t : State}
    (h : BuildDone M W s) (ht : handle e s = .next t) : BuildDone M W t := by
  rcases he with rfl | ⟨b, rfl⟩
  · rw [handle_step_free h.free] at ht
    cases ht
    exact buildDone_settle h
  · cases ht
    exact buildDone_settle ⟨(rxHandler_busy b s).trans h.free, (rxHandler_ph b s).trans h.idle,
      (rxHandler_cnt b s).trans h.entry, (rxHandler_built b s).trans h.latched, (rxHandler_M b s).trans h.mask,
      (rxHandler_W b s).trans h.wave⟩

/-! ## `TICK` with the driver free, one equation per case (42_phase_sequencer section 1, 44_output_driver section 1) -/

theorem tick_strobe_free {s : State} (hb : s.busy = false) (hp : s.ph = .strobe) :
    settle (tickHandler s) =
      { s with
        ph := .playback, rdy := true, built := false, port := s.W.read 0, idx := 1#8, busy := true,
        stepTimer := some 0 } := by
  rw [tickHandler_strobe hp]
  exact settle_playback_ready hb rfl rfl

theorem tick_playback_free {s : State} (hb : s.busy = false) (hp : s.ph = .playback) (hl : s.built = false) :
    settle (tickHandler s) =
      { s with
        ph := .idle, cnt := 0#8, M := maskOf (snapshot s.T), W := waveOf (snapshot s.T), built := true,
        port := 0#8 } := by
  rw [tickHandler_playback hp]
  exact settle_idle_due hb rfl rfl hl

theorem tick_idle_counting_free {s : State} (hb : s.busy = false) (hp : s.ph = .idle)
    (ho : idleOver (s.cnt + 1#8) = false) (hc : s.cnt + 1#8 ≠ 0#8) :
    settle (tickHandler s) = { s with cnt := s.cnt + 1#8, built := false, port := 0#8 } := by
  rw [tickHandler_idle_counting hp ho]
  exact settle_idle_counting hb hp hc

theorem tick_idle_last_free {s : State} (hb : s.busy = false) (hp : s.ph = .idle)
    (ho : idleOver (s.cnt + 1#8) = true) :
    settle (tickHandler s) = { s with ph := .strobe, cnt := s.cnt + 1#8, built := false, port := s.M } := by
  rw [tickHandler_idle_last hp ho]
  exact settle_strobe hb rfl

/-- Settles O40. -/
theorem buildRunsOncePerCycle : Obligations.BuildRunsOncePerCycle := by
  intro es s t hb hp hc hl hes h
  have ht : BuildDone s.M s.W t :=
    runEvents_keeps (fun e he _ _ => handle_keeps_buildDone (hes e he)) ⟨hb, hp, hc, hl, rfl, rfl⟩ h
  refine ⟨ht.mask, ht.wave, ht.latched, _, rfl, ?_⟩
  have hcnt : t.cnt + 1#8 = 1#8 := by rw [ht.entry]; rfl
  rw [tick_eq, tick_idle_counting_free ht.free ht.idle (by rw [hcnt]; rfl) (by rw [hcnt]; decide)]
  exact ⟨ht.mask, ht.wave, rfl, hcnt⟩

/-! ## The phases after reset (42_phase_sequencer rule R159) -/

/-- The first ticks after reset are those of a cycle that has entered Idle. -/
theorem phaseAfterReset_eq {n : Nat} (hn : n ≤ 17) : phaseAfterReset n = phaseAfterStrobe 17#8 (n + 2) := by
  rcases Nat.lt_or_eq_of_le hn with hlt | rfl
  · rw [phaseAfterStrobe_idle 17#8 (by omega), phaseAfterReset, if_pos (by omega)]
  · rfl

/-- One `TICK` takes the block from each place after reset to the next. -/
theorem tickHandler_phaseAfterReset {n : Nat} (hn : n < 19) {s : State} (h : (s.ph, s.cnt) = phaseAfterReset n) :
    ((tickHandler s).ph, (tickHandler s).cnt) = phaseAfterReset (n + 1) := by
  rcases (show n < 17 ∨ n = 17 ∨ n = 18 by omega) with hlt | rfl | rfl
  · rw [phaseAfterReset_eq (by omega)] at h ⊢
    exact tickHandler_phaseAfterStrobe 17#8 (by omega) h
  · obtain ⟨hp, hc⟩ := Prod.mk.inj h
    rw [tickHandler_strobe hp, hc]
    rfl
  · obtain ⟨hp, hc⟩ := Prod.mk.inj h
    rw [tickHandler_playback hp]
    rfl

/-- Between two entries to Idle the block is not at the build level. -/
theorem phaseAfterReset_ne_entry {n : Nat} (h0 : 0 < n) (hn : n ≤ 18) : phaseAfterReset n ≠ (.idle, 0#8) := by
  rcases (show n ≤ 16 ∨ n = 17 ∨ n = 18 by omega) with hle | rfl | rfl
  · rw [phaseAfterReset, if_pos hle]
    intro h
    have hc : BitVec.ofNat 8 n = 0#8 := (Prod.mk.inj h).2
    bv_omega
  · decide
  · decide

/-- Settles O34. -/
theorem firstCycleAfterReset : Obligations.FirstCycleAfterReset := by
  intro es q t hr h
  have hphase : es.count .tick ≤ 19 → (t.ph, t.cnt) = phaseAfterReset (es.count .tick) :=
    fun hn => phase_of_runEvents (fun _ hlt _ => tickHandler_phaseAfterReset hlt) rfl hr hn h
  refine ⟨hphase, fun h17 => ⟨_, rfl, ?_⟩⟩
  have hp : t.ph = .strobe := by
    have h := hphase (by omega)
    rw [h17] at h
    exact (Prod.mk.inj h).1
  simp [tickHandler_strobe hp]

/-- Settles O31, phase by phase. -/
theorem tickMovesThePhase : Obligations.TickMovesThePhase := by
  refine fun s => ⟨_, rfl, fun hp => ?_, fun hp => ?_, fun hp => ?_, fun hp => ?_⟩ <;> rw [tick_eq]
  · cases hb : s.busy with
    | true =>
      rw [settle_busy ((tickHandler_busy s).trans hb), tickHandler_strobe hp]
      simp [hb]
    | false => simp [tick_strobe_free hb hp]
  · refine ⟨by simp [tickHandler_playback hp], by simp [tickHandler_playback hp], by simp [tickHandler_playback hp],
      by simp [tickHandler_playback hp], fun hb hl => ?_⟩
    rw [tick_playback_free hb hp hl]
    exact ⟨rfl, rfl, rfl, rfl⟩
  · have ho : idleOver (s.cnt + 1#8) = decide (16#8 < s.cnt + 1#8) := rfl
    by_cases hlt : 16#8 < s.cnt + 1#8
    · rw [tickHandler_idle_last hp (ho.trans (decide_eq_true hlt)), if_pos hlt]; simp
    · rw [tickHandler_idle_counting hp (ho.trans (decide_eq_false hlt)), if_neg hlt]; simp [hp]
  · rw [tickHandler_illegal hp]; simp

/-- In Idle after its first tick, or in the Strobe and Playback that follow, with the tables `M` and `W`. -/
structure Underway (M : Byte) (W : Memory) (n : Nat) (s : State) : Prop where
  phase : (s.ph, s.cnt) = phaseAfterReset (n + 1)
  mask : s.M = M
  wave : s.W = W

theorem handle_tick_underway {M : Byte} {W : Memory} {n : Nat} (hn : n < 17) {s t : State} (h : Underway M W n s)
    (ht : handle .tick s = .next t) : Underway M W (n + 1) t := by
  have hphase : (t.ph, t.cnt) = phaseAfterReset (n + 2) := by
    cases ht
    rw [tick_eq, settle_ph, settle_cnt]
    exact tickHandler_phaseAfterReset (by omega) h.phase
  obtain ⟨hM, hW⟩ := handle_keeps_tables ht (hphase ▸ phaseAfterReset_ne_entry (by omega) (by omega))
  exact ⟨hphase, hM.trans h.mask, hW.trans h.wave⟩

theorem handle_other_underway {M : Byte} {W : Memory} {n : Nat} (hn : n ≤ 17) {e : Event} (hr : e ≠ .reset)
    (he : e ≠ .tick) {s t : State} (h : Underway M W n s) (ht : handle e s = .next t) : Underway M W n t := by
  have hphase : (t.ph, t.cnt) = phaseAfterReset (n + 1) := (handle_keeps_phase hr he ht).trans h.phase
  obtain ⟨hM, hW⟩ := handle_keeps_tables ht (hphase ▸ phaseAfterReset_ne_entry (by omega) (by omega))
  exact ⟨hphase, hM.trans h.mask, hW.trans h.wave⟩

/-- Settles O41: the next 17 ticks stay away from the build level, where alone the tables change. -/
theorem missedBuildKeepsTables : Obligations.MissedBuildKeepsTables := by
  intro es s u t hb hp hc hu hr hn h
  have hcnt : s.cnt + 1#8 = 1#8 := by rw [hc]; rfl
  have hstart : Underway s.M s.W 0 u := by
    rw [handle_tick_busy hb, tickHandler_idle_counting hp (by rw [hcnt]; rfl)] at hu
    cases hu
    exact ⟨Prod.ext hp hcnt, rfl, rfl⟩
  have hend : Underway s.M s.W (es.count .tick) t :=
    runEvents_counting (fun n hlt _ _ => handle_tick_underway hlt)
      (fun e he hne n hle _ _ => handle_other_underway hle (fun heq => hr (heq ▸ he)) hne) hstart hn h
  exact ⟨hend.mask, hend.wave⟩

end Sys2Proof.Machine
end

section
/-! PROOFS. The invariant of the reachable states: it is what a handler leaves, `ReadyToSettle`, together with the
`settle()` that follows, and every stimulus keeps it (10_state, 70_reset_and_hazards). -/

namespace Sys2Proof.Machine

/-- What holds after the handler of an event and before its `settle()`: the invariant but that the sequencer may still
have something to do, and that in Playback the flag may be up for a playback not yet started. -/
structure ReadyToSettle (s : State) : Prop where
  psLegal : s.ps = .awaitingChannel ∨ s.ps = .awaitingValue
  phLegal : s.ph ≠ .illegal
  cntInIdle : s.ph = .idle → s.cnt ≤ 16#8
  cntOutsideIdle : s.ph ≠ .idle → s.cnt = 17#8
  idxInTable : s.idx ≤ 250#8
  idxStarted : s.busy = true → 1#8 ≤ s.idx
  timerRuns : s.stepTimer.isSome = s.busy
  rdyWhenBusy : s.busy = true → s.rdy = true
  rdyWhenFree : s.busy = false → s.rdy = true → s.ph = .playback
  busyLatch : s.busy = true → s.built = false
  tables : ∃ snap, TablesFrom s snap
  portPlaying : s.busy = true → s.port = s.W.read (s.idx.toNat - 1)
  portPlayed : s.busy = false → s.rdy = false → s.ph = .playback → s.port = 0#8
  pchData : s.pch ≠ 252#8
  targetData : ∀ i : Fin 9, s.T[i.val] ≠ 252#8
  noAnomaly : s.ng = false

/-! ## The invariant is `ReadyToSettle` in a settled state -/

/-- A settled state with the driver free has not left the Playback-Ready Flag up. -/
theorem rdy_of_settled {s : State} (hs : Settled s) (hb : s.busy = false) (hp : s.ph = .playback) : s.rdy = false := by
  cases hr : s.rdy with
  | false => rfl
  | true =>
    have hbusy : (settle s).busy = s.busy := congrArg State.busy hs
    rw [settle_playback_ready hb hp hr, hb] at hbusy
    cases hbusy

theorem blockInv_of_settled {s : State} (h : ReadyToSettle s) (hs : Settled s) : BlockInv s :=
  have hrdy : s.rdy = s.busy := by
    cases hb : s.busy with
    | true => exact h.rdyWhenBusy hb
    | false =>
      cases hr : s.rdy with
      | false => rfl
      | true =>
        have hdown := rdy_of_settled hs hb (h.rdyWhenFree hb hr)
        rw [hr] at hdown
        exact hdown
  { h with
    rdyIsBusy := hrdy
    portPlayed := fun hb => h.portPlayed hb (hrdy.trans hb)
    settled := hs }

theorem readyToSettle_of_blockInv {s : State} (h : BlockInv s) : ReadyToSettle s :=
  { h with
    rdyWhenBusy := fun hb => h.rdyIsBusy.trans hb
    rdyWhenFree := fun hb hr => by rw [h.rdyIsBusy, hb] at hr; cases hr
    portPlayed := fun hb _ => h.portPlayed hb }

/-- With the driver free, the tables, the port and the latch may change, as long as the tables are built ones and the
port is low after a playback. -/
theorem readyToSettle_with_tables {s : State} (h : ReadyToSettle s) (hb : s.busy = false) {M : Byte} {W : Memory}
    {port : Byte} (built : Bool) (ht : ∃ snap, M = maskOf snap ∧ W = waveOf snap)
    (hport : s.rdy = false → s.ph = .playback → port = 0#8) :
    ReadyToSettle { s with M := M, W := W, port := port, built := built } :=
  { h with
    busyLatch := fun hb' => absurd hb' (by simp [hb])
    tables := ht
    portPlaying := fun hb' => absurd hb' (by simp [hb])
    portPlayed := fun _ => hport }

theorem readyToSettle_settle {s : State} (h : ReadyToSettle s) : ReadyToSettle (settle s) := by
  rcases settle_cases s with ⟨-, he⟩ | ⟨hb, hp, he⟩ | ⟨hb, hp, hr, he⟩ | ⟨hb, hp, hr, he⟩ | ⟨hb, hp, hc, hl, he⟩ |
    ⟨hb, hp, hc, hl, he⟩ | ⟨hb, hp, hc, he⟩ | ⟨-, hp, -⟩
  · rw [he]; exact h
  · rw [he]
    exact readyToSettle_with_tables h hb false h.tables fun _ hp' => by simp [hp] at hp'
  · rw [he]
    exact { h with
      idxInTable := show 1#8 ≤ 250#8 by decide
      idxStarted := fun _ => BitVec.le_refl 1#8
      timerRuns := rfl
      rdyWhenBusy := fun _ => hr
      rdyWhenFree := nofun
      busyLatch := fun _ => rfl
      portPlaying := fun _ => rfl
      portPlayed := nofun }
  · rw [he]
    exact readyToSettle_with_tables h hb false h.tables fun hr hp' => h.portPlayed hb hr hp'
  · rw [he]
    exact readyToSettle_with_tables h hb true ⟨_, rfl, rfl⟩ fun _ _ => rfl
  · rw [he]
    exact readyToSettle_with_tables h hb s.built h.tables fun _ _ => rfl
  · rw [he]
    exact readyToSettle_with_tables h hb false h.tables fun _ _ => rfl
  · exact absurd hp h.phLegal

theorem blockInv_settle {s : State} (h : ReadyToSettle s) : BlockInv (settle s) :=
  blockInv_of_settled (readyToSettle_settle h) (settled_settle s)

/-! ## Every event keeps the invariant -/

theorem readyToSettle_resetValues : ReadyToSettle State.resetValues where
  psLegal := .inl rfl
  phLegal := by decide
  cntInIdle := by decide
  cntOutsideIdle := by decide
  idxInTable := by decide
  idxStarted := by decide
  timerRuns := rfl
  rdyWhenBusy := by decide
  rdyWhenFree := by decide
  busyLatch := by decide
  tables := ⟨_, maskOf_resetValues.symm, (waveOf_eq_nil maskOf_resetValues).symm⟩
  portPlaying := by decide
  portPlayed := by decide
  pchData := by decide
  targetData := by decide
  noAnomaly := rfl

/-- Settles O3: the reset state is what the reset values settle to. -/
theorem resetMeetsInvariant : Obligations.ResetMeetsInvariant := by
  rw [Obligations.ResetMeetsInvariant, ← settle_resetValues]
  exact blockInv_settle readyToSettle_resetValues

theorem targetData_writeTarget {s : State} (h : ∀ i : Fin 9, s.T[i.val] ≠ 252#8) (c : Byte) {b : Byte}
    (hb : b ≠ 252#8) (i : Fin 9) : (s.writeTarget c b).T[i.val] ≠ 252#8 := by
  by_cases hc : c.toNat ≤ 8
  · rw [writeTarget_of_le s b hc]
    by_cases hi : c.toNat = i.val
    · simpa [← hi] using hb
    · rw [Vector.getElem_set_ne _ _ hi]
      exact h i
  · rw [writeTarget_of_gt s b (by omega)]
    exact h i

/-- All that a write to the Target Table writes. -/
theorem writeTarget_form (s : State) (c b : Byte) : s.writeTarget c b = { s with T := (s.writeTarget c b).T } := by
  unfold State.writeTarget
  cases targetIndex c <;> rfl

theorem readyToSettle_rxHandler {s : State} (h : ReadyToSettle s) (b : Byte) : ReadyToSettle (rxHandler b s) := by
  by_cases hb : b = 252#8
  · rw [hb, rxHandler_resetByte]
    exact { h with psLegal := .inl rfl }
  · rcases h.psLegal with hp | hp
    · rw [rxHandler_channel hb hp]
      exact { h with psLegal := .inr rfl, pchData := hb }
    · have hT := targetData_writeTarget h.targetData s.pch hb
      rw [rxHandler_value hb hp, writeTarget_form]
      exact { h with psLegal := .inl rfl, targetData := hT }

theorem readyToSettle_tickHandler {s : State} (h : BlockInv s) : ReadyToSettle (tickHandler s) := by
  have hready : ReadyToSettle s := readyToSettle_of_blockInv h
  have hdown : s.busy = false → s.rdy ≠ true := fun hb => by rw [h.rdyIsBusy, hb]; decide
  rcases ph_cases s with hp | hp | hp | hp
  · rw [tickHandler_strobe hp]
    exact { hready with
      phLegal := nofun
      cntInIdle := nofun
      cntOutsideIdle := fun _ => h.cntOutsideIdle (by simp [hp])
      rdyWhenBusy := fun _ => rfl
      rdyWhenFree := fun _ _ => rfl
      portPlayed := nofun }
  · rw [tickHandler_playback hp]
    exact { hready with
      phLegal := nofun
      cntInIdle := fun _ => show 0#8 ≤ 16#8 by decide
      cntOutsideIdle := fun hne => absurd rfl hne
      rdyWhenFree := fun hb hr => absurd hr (hdown hb)
      portPlayed := nofun }
  · have hc : s.cnt ≤ 16#8 := h.cntInIdle hp
    cases ho : idleOver (s.cnt + 1#8) with
    | true =>
      have hlt : 16#8 < s.cnt + 1#8 := of_decide_eq_true ho
      rw [tickHandler_idle_last hp ho]
      exact { hready with
        phLegal := nofun
        cntInIdle := nofun
        cntOutsideIdle := fun _ => show s.cnt + 1#8 = 17#8 by bv_omega
        rdyWhenFree := fun hb hr => absurd hr (hdown hb)
        portPlayed := nofun }
    | false =>
      have hle : ¬ 16#8 < s.cnt + 1#8 := of_decide_eq_false ho
      rw [tickHandler_idle_counting hp ho]
      exact { hready with
        cntInIdle := fun _ => show s.cnt + 1#8 ≤ 16#8 by bv_omega
        cntOutsideIdle := fun hne => absurd hp hne }
  · exact absurd hp h.phLegal

/-- In a state of the invariant a `STEP` has its entry to write (20_memory rule R62). -/
theorem stepHandler_of_blockInv {s : State} (h : BlockInv s) : ∃ u, stepHandler s = .next u ∧ ReadyToSettle u := by
  have hready : ReadyToSettle s := readyToSettle_of_blockInv h
  have hin : s.idx.toNat ≤ 250 := BitVec.le_def.mp h.idxInTable
  rcases stepHandler_cases s with ⟨-, he⟩ | ⟨hb, hi, he⟩ | ⟨hb, hi, he⟩ | ⟨-, hi, -⟩
  · exact ⟨s, he, hready⟩
  · have hidx : (s.idx + 1#8).toNat = s.idx.toNat + 1 := by bv_omega
    refine ⟨_, he, { hready with
      idxInTable := show s.idx + 1#8 ≤ 250#8 by bv_omega
      idxStarted := fun _ => show 1#8 ≤ s.idx + 1#8 by bv_omega
      timerRuns := hb.symm
      portPlaying := fun _ => ?_
      portPlayed := fun hb' => absurd hb' (by simp [hb]) }⟩
    rw [hidx, Nat.add_sub_cancel]
  · obtain ⟨snap, hM, hW⟩ := h.tables
    exact ⟨_, he, { hready with
      idxStarted := nofun
      timerRuns := rfl
      rdyWhenBusy := nofun
      rdyWhenFree := nofun
      busyLatch := nofun
      portPlaying := nofun
      portPlayed := fun _ _ _ => show s.W.read 250 = 0#8 by rw [hW, read_waveOf_last] }⟩
  · omega

/-- No event stops in a state of the invariant, and each leaves one (60_exceptions rule R226). -/
theorem handle_of_blockInv (e : Event) {s : State} (h : BlockInv s) : ∃ t, handle e s = .next t ∧ BlockInv t := by
  cases e with
  | reset => exact ⟨_, rfl, blockInv_settle { readyToSettle_resetValues with }⟩
  | rx b => exact ⟨_, rfl, blockInv_settle (readyToSettle_rxHandler (readyToSettle_of_blockInv h) b)⟩
  | tick => exact ⟨_, rfl, blockInv_settle (readyToSettle_tickHandler h)⟩
  | step =>
    obtain ⟨u, hu, hready⟩ := stepHandler_of_blockInv h
    exact ⟨_, by rw [handle_step, hu, andThen_next], blockInv_settle hready⟩

/-! ## Every stimulus keeps the invariant -/

theorem runEvents_of_blockInv (es : List Event) {s : State} (h : BlockInv s) :
    ∃ t, runEvents es s = .next t ∧ BlockInv t := by
  induction es generalizing s with
  | nil => exact ⟨s, rfl, h⟩
  | cons e es ih =>
    obtain ⟨u, hu, hinv⟩ := handle_of_blockInv e h
    rw [runEvents_cons, hu, andThen_next]
    exact ih hinv

theorem receiveAll_of_blockInv (bs : List Byte) {s : State} (h : BlockInv s) : BlockInv (receiveAll bs s) := by
  induction bs generalizing s with
  | nil => exact h
  | cons b bs ih => exact ih (blockInv_settle (readyToSettle_rxHandler (readyToSettle_of_blockInv h) b))

/-- The invariant does not speak of the queue, nor of how far a running timer has counted. -/
theorem blockInv_with_queue {s : State} (h : BlockInv s) (queue : List Stimulus) : BlockInv { s with pending := queue } :=
  { h with settled := (settled_iff _).mpr ((settled_iff s).mp h.settled) }

theorem blockInv_advanceTimer {s : State} (h : BlockInv s) : BlockInv s.advanceTimer :=
  { h with
    timerRuns := by rw [advanceTimer_stepTimer, Option.isSome_map, h.timerRuns, advanceTimer_busy]
    settled := (settled_iff _).mpr ((settled_iff s).mp h.settled) }

theorem deliver_of_blockInv (x : Stimulus) {s : State} (h : BlockInv s) : ∃ t, deliver x s = .next t ∧ BlockInv t := by
  cases x with
  | event e => exact handle_of_blockInv e h
  | cycle c => exact runEvents_of_blockInv _ (blockInv_advanceTimer h)
  | frame bytes =>
    rw [deliver, deliverFrame]
    split
    · rename_i i left _
      rw [exec_eq_receiveAll_encode, requeue_eq]
      exact ⟨_, rfl, receiveAll_of_blockInv _ (blockInv_with_queue h _)⟩
    · exact ⟨s, rfl, h⟩
    · exact handle_of_blockInv _ h

/-- Settles O5. -/
theorem noStepStopsInReachableStates : Obligations.NoStepStopsInReachableStates := by
  intro s h
  cases hq : s.pending with
  | nil => exact ⟨s, step_of_pending_nil hq, h⟩
  | cons x queue =>
    rw [step_of_pending hq]
    exact deliver_of_blockInv x (blockInv_with_queue h queue)

/-- Settles O4: the next state is the one O5 speaks of. -/
theorem everyStepKeepsInvariant : Obligations.EveryStepKeepsInvariant := by
  intro s t h ht
  obtain ⟨u, hu, hinv⟩ := noStepStopsInReachableStates s h
  rw [hu] at ht
  cases ht
  exact hinv

/-- Settles O51. -/
theorem maskCoversTheWaveform : Obligations.MaskCoversTheWaveform := by
  intro s h
  obtain ⟨snap, hM, hW⟩ := h.tables
  refine ⟨⟨snap, hM, hW⟩, ?_⟩
  rw [hM, hW]
  exact fun i => bit_off_outside_mask

/-! ## Well-timed runs (70_reset_and_hazards rule R264) -/

theorem wellTimed_append {es es' : List Event} {s t : State} (hw : wellTimed (es ++ es') s = true)
    (h : runEvents es s = .next t) : wellTimed es' t = true := by
  induction es generalizing s with
  | nil => cases h; exact hw
  | cons e es ih =>
    obtain ⟨u, hu, ht⟩ := andThen_eq_next.mp h
    rw [List.cons_append, wellTimed, hu, Bool.and_eq_true] at hw
    exact ih hw.2 ht

/-- A settled state at the entry to Idle with the driver free has had its build (43_table_builder rule R170). -/
theorem built_of_settled {s : State} (hs : Settled s) (hb : s.busy = false) (hp : s.ph = .idle) (hc : s.cnt = 0#8) :
    s.built = true := by
  cases hl : s.built with
  | true => rfl
  | false =>
    have hbuilt : (settle s).built = s.built := congrArg State.built hs
    rw [settle_idle_due hb hp hc hl, hl] at hbuilt
    cases hbuilt

/-- Settles O42: the run in time leaves no playback in progress at the second tick, so the first one's phase has had its
build. -/
theorem wellTimedRunBuildsEveryCycle : Obligations.WellTimedRunBuildsEveryCycle := by
  intro es es' s t hinv hp hr hr' hes hes' hw h
  have hcount : (es ++ [Event.tick] ++ es').count .tick = 1 := by simp [hes, hes']
  have hphase : (t.ph, t.cnt) = phaseAfterStrobe s.cnt 2 := by
    have hrun := phase_of_runEvents (f := fun n => phaseAfterStrobe s.cnt (n + 1))
      (fun n hn u => tickHandler_phaseAfterStrobe s.cnt (by omega)) (N := 18) (by rw [hp]; rfl) (by simp [hr, hr'])
      (by omega) h
    rwa [hcount] at hrun
  obtain ⟨hidle, hcnt⟩ := Prod.mk.inj hphase
  have hfree : t.busy = false := by
    have htime : wellTimed [.tick] t = true := wellTimed_append hw h
    simpa [wellTimed, inTime, hidle] using htime
  obtain ⟨u, hu, hinv'⟩ := runEvents_of_blockInv (es ++ [.tick] ++ es') hinv
  rw [h] at hu
  cases hu
  exact ⟨hidle, hcnt, hfree, built_of_settled hinv'.settled hfree hidle hcnt⟩

end Sys2Proof.Machine
end

section
/-! PROOFS. The output driver over a whole cycle: a playback plays the table it started with, each channel is high for
its width, and the targets at the entry to Idle are on the port at the next Strobe (44_output_driver, 20_memory). -/

namespace Sys2Proof.Machine

/-! ## A playback in progress (44_output_driver rules R193, R194, R197) -/

/-- `k` time-steps into a playback that started with the tables and the latch of `s`. -/
structure Playing (s : State) (k : Nat) (u : State) : Prop where
  busy : u.busy = true
  idx : u.idx.toNat = k + 1
  port : u.port = s.W.read k
  mask : u.M = s.M
  wave : u.W = s.W
  latch : u.built = s.built

theorem handle_step_playing {s u v : State} {k : Nat} (hk : k < 249) (h : Playing s k u)
    (hv : handle .step u = .next v) : Playing s (k + 1) v := by
  have hlt : u.idx.toNat < 250 := by rw [h.idx]; omega
  have hidx : (u.idx + 1#8).toNat = u.idx.toNat + 1 := by bv_omega
  rw [handle_step_going h.busy hlt] at hv
  cases hv
  exact { h with
    idx := by rw [hidx, h.idx]
    port := by rw [h.wave, h.idx] }

/-- While a playback is in progress `settle()` has nothing to do, and neither `RX` nor `TICK` writes what it shows
(44_output_driver rule R197). -/
theorem handle_other_playing {s u v : State} {e : Event} {k : Nat} (hr : e ≠ .reset) (he : e ≠ .step)
    (h : Playing s k u) (hv : handle e u = .next v) : Playing s k v := by
  cases e with
  | reset => exact absurd rfl hr
  | step => exact absurd rfl he
  | rx b =>
    rw [handle_rx, settle_busy ((rxHandler_busy b u).trans h.busy)] at hv
    cases hv
    constructor <;> simp [h.busy, h.idx, h.port, h.mask, h.wave, h.latch]
  | tick =>
    rw [handle_tick_busy h.busy] at hv
    cases hv
    constructor <;> simp [h.busy, h.idx, h.port, h.mask, h.wave, h.latch]

/-- A playback that has just ended does not start again: the flag is down (44_output_driver rules R194, R195). -/
theorem settle_after_playback {s : State} (hb : s.busy = false) (hr : s.rdy = false) :
    (settle s).busy = false ∧ (settle s).rdy = false ∧ (settle s).idx = s.idx ∧ (settle s).stepTimer = s.stepTimer := by
  rcases settle_cases s with ⟨hb', -⟩ | ⟨-, -, he⟩ | ⟨-, -, hr', -⟩ | ⟨-, -, -, he⟩ | ⟨-, -, -, -, he⟩ |
    ⟨-, -, -, -, he⟩ | ⟨-, -, -, he⟩ | ⟨-, -, he⟩
  case inl => rw [hb] at hb'; cases hb'
  case inr.inr.inl => rw [hr] at hr'; cases hr'
  all_goals rw [he]; exact ⟨hb, hr, rfl, rfl⟩

/-- Settles O48, by the invariant `Playing` over the number of `STEP`s; the last one finds the index at 250. -/
theorem playbackIsNeverDisturbed : Obligations.PlaybackIsNeverDisturbed := by
  intro es s t hb hi hport hr hn h
  have hstart : Playing s 0 s := ⟨hb, by rw [hi]; rfl, hport, rfl, rfl, rfl⟩
  have hend : Playing s (es.count .step) t :=
    runEvents_counting (fun k hk _ _ => handle_step_playing hk)
      (fun e he hne _ _ _ _ => handle_other_playing (fun heq => hr (heq ▸ he)) hne) hstart hn h
  refine ⟨hend.busy, hend.idx, hend.port, hend.mask, hend.wave, hend.latch, fun h249 => ?_⟩
  have hlast : t.idx = 250#8 := BitVec.eq_of_toNat_eq (by rw [hend.idx, h249]; rfl)
  obtain ⟨hfree, hdown, hidx, htimer⟩ :=
    settle_after_playback (s := { t with port := t.W.read 250, busy := false, rdy := false, stepTimer := none }) rfl rfl
  exact ⟨_, handle_step_last hend.busy hlast, hfree, hdown, hidx.trans hlast, htimer⟩

/-! ## The pulse of a channel (44_output_driver rule R200) -/

/-- A property indexed by how often an event `c` has come, under which every event of a run completes with the index
it should have, is reached by the run. -/
theorem runEvents_completes {P : Nat → State → Prop} {c : Event} {es : List Event}
    (hstep : ∀ e ∈ es, ∀ n u, P n u → ∃ v, handle e u = .next v ∧ P (n + [e].count c) v) {n : Nat} {s : State}
    (h : P n s) : ∃ t, runEvents es s = .next t ∧ P (n + es.count c) t := by
  induction es generalizing n s with
  | nil => exact ⟨s, rfl, h⟩
  | cons e es ih =>
    obtain ⟨u, hu, hPu⟩ := hstep e List.mem_cons_self n s h
    obtain ⟨t, ht, hPt⟩ := ih (fun e he => hstep e (List.mem_cons_of_mem _ he)) hPu
    refine ⟨t, by rw [runEvents_cons, hu, andThen_next, ht], ?_⟩
    have hcount : (e :: es).count c = [e].count c + es.count c := List.count_append (l₁ := [e])
    rwa [hcount, ← Nat.add_assoc]

/-- In Strobe with the driver free, showing the mask `M`, with the table `W` ready to be played. -/
structure Strobing (M : Byte) (W : Memory) (s : State) : Prop where
  free : s.busy = false
  phase : s.ph = .strobe
  wave : s.W = W
  mask : s.M = M
  port : s.port = M

theorem strobing_settle {M : Byte} {W : Memory} {s : State} (hb : s.busy = false) (hp : s.ph = .strobe)
    (hW : s.W = W) (hM : s.M = M) : Strobing M W (settle s) := by
  rw [settle_strobe hb hp]
  exact ⟨hb, hp, hW, hM, hM⟩

theorem handle_rx_strobing {M : Byte} {W : Memory} (b : Byte) {s : State} (h : Strobing M W s) :
    ∃ t, handle (.rx b) s = .next t ∧ Strobing M W t :=
  ⟨_, rfl, strobing_settle ((rxHandler_busy b s).trans h.free) ((rxHandler_ph b s).trans h.phase)
    ((rxHandler_W b s).trans h.wave) ((rxHandler_M b s).trans h.mask)⟩

/-- In Playback `k` `STEP`s after the playback of the table `W` started: in progress, or over with the port low. -/
structure PlayedTo (W : Memory) (k : Nat) (s : State) : Prop where
  phase : s.ph = .playback
  wave : s.W = W
  driver : (s.busy = true ∧ k < 250 ∧ s.idx.toNat = k + 1 ∧ s.port = W.read k) ∨
    (s.busy = false ∧ 250 ≤ k ∧ s.rdy = false ∧ s.port = 0#8)

theorem handle_rx_playedTo {W : Memory} {k : Nat} (b : Byte) {s : State} (h : PlayedTo W k s) :
    ∃ t, handle (.rx b) s = .next t ∧ PlayedTo W k t := by
  refine ⟨_, handle_rx b s, ?_⟩
  have hp : (rxHandler b s).ph = .playback := (rxHandler_ph b s).trans h.phase
  have hW : (rxHandler b s).W = W := (rxHandler_W b s).trans h.wave
  rcases h.driver with ⟨hb, hd⟩ | ⟨hb, hk, hr, hport⟩
  · have hb' : (rxHandler b s).busy = true := (rxHandler_busy b s).trans hb
    rw [settle_busy hb']
    exact ⟨hp, hW, .inl ⟨hb', by simpa using hd⟩⟩
  · have hb' : (rxHandler b s).busy = false := (rxHandler_busy b s).trans hb
    have hr' : (rxHandler b s).rdy = false := (rxHandler_rdy b s).trans hr
    rw [settle_playback_waiting hb' hp hr']
    exact ⟨hp, hW, .inr ⟨hb', hk, hr', (rxHandler_port b s).trans hport⟩⟩

/-- Each `STEP` shows the next entry; the last entry is zero, and the port stays low after it (44_output_driver rules
R193 to R195). -/
theorem handle_step_playedTo {W : Memory} (hlast : W.read 250 = 0#8) {k : Nat} {s : State} (h : PlayedTo W k s) :
    ∃ t, handle .step s = .next t ∧ PlayedTo W (k + 1) t := by
  rcases h.driver with ⟨hb, hk, hidx, hport⟩ | ⟨hb, hk, hr, hport⟩
  · rcases Nat.lt_or_eq_of_le (show k + 1 ≤ 250 by omega) with hlt | heq
    · have hnext : (s.idx + 1#8).toNat = s.idx.toNat + 1 := by bv_omega
      refine ⟨_, handle_step_going hb (by omega), h.phase, h.wave, .inl ⟨hb, hlt, ?_, ?_⟩⟩
      · rw [hnext, hidx]
      · rw [h.wave, hidx]
    · have h250 : s.idx = 250#8 := BitVec.eq_of_toNat_eq (hidx.trans heq)
      refine ⟨_, (handle_step_last hb h250).trans (congrArg _ (settle_playback_waiting rfl h.phase rfl)), h.phase,
        h.wave, .inr ⟨rfl, by omega, rfl, ?_⟩⟩
      rw [h.wave, hlast]
  · refine ⟨_, (handle_step_free hb).trans (congrArg _ (settle_playback_waiting hb h.phase hr)), h.phase, h.wave,
      .inr ⟨hb, by omega, hr, hport⟩⟩

/-- What the port shows of a channel of the snapshot played (44_output_driver rule R200). -/
theorem getLsbD_port_of_playedTo {snap : Vector Byte 8} {k : Nat} {s : State} (h : PlayedTo (waveOf snap) k s)
    {i : Nat} (hi : i < 8) : s.port.getLsbD i = (decide (k < snap[i].toNat) && decide (snap[i] ≤ 250#8)) := by
  rcases h.driver with ⟨-, -, -, hport⟩ | ⟨-, hk, -, hport⟩
  · rw [hport, getLsbD_read_waveOf snap k i hi]
  · have hoff : ¬ (k < snap[i].toNat ∧ snap[i] ≤ 250#8) := fun ⟨hlt, hle⟩ => by bv_omega
    rw [hport, ← Bool.decide_and, decide_eq_false hoff, BitVec.getLsbD_zero]

/-- The `TICK` that ends Idle raises the enabled channels, and no byte received in Strobe changes that. -/
theorem strobe_shows_mask {s : State} {before : List Event} (hp : s.ph = .idle) (hc : s.cnt = 16#8)
    (hb : s.busy = false) (hrx : ∀ e ∈ before, ∃ b, e = .rx b) :
    ∃ t, runEvents (.tick :: before) s = .next t ∧ Strobing s.M s.W t := by
  have htick : Strobing s.M s.W (settle (tickHandler s)) := by
    rw [tick_idle_last_free hb hp (by rw [hc]; rfl)]
    exact ⟨hb, rfl, rfl, rfl, rfl⟩
  rw [runEvents_cons, handle_tick, andThen_next]
  refine runEvents_completes (P := fun _ => Strobing s.M s.W) (c := .tick) (n := 0) (fun e he _ u hu => ?_) htick
  obtain ⟨b, rfl⟩ := hrx e he
  exact handle_rx_strobing b hu

/-- The `TICK` that ends Strobe starts the playback, which bytes do not disturb and each `STEP` takes further. -/
theorem playback_follows_strobe {M : Byte} {W : Memory} {s : State} {during : List Event} (h : Strobing M W s)
    (hlast : W.read 250 = 0#8) (hes : ∀ e ∈ during, e = .step ∨ ∃ b, e = .rx b) :
    ∃ t, runEvents (.tick :: during) s = .next t ∧ PlayedTo W (during.count .step) t := by
  have htick : PlayedTo W 0 (settle (tickHandler s)) := by
    rw [tick_strobe_free h.free h.phase]
    exact ⟨rfl, h.wave, .inl ⟨rfl, by omega, rfl, by rw [h.wave]⟩⟩
  rw [runEvents_cons, handle_tick, andThen_next, ← Nat.zero_add (during.count .step)]
  refine runEvents_completes (P := PlayedTo W) (fun e he k u hu => ?_) htick
  rcases hes e he with rfl | ⟨b, rfl⟩
  · exact handle_step_playedTo hlast hu
  · exact handle_rx_playedTo b hu

/-- Settles O49: the Strobe shows the mask of the snapshot, and the playback its table. -/
theorem pulseOfAChannel : Obligations.PulseOfAChannel := by
  intro s snap i before during ⟨hM, hW⟩ hp hc hb _ hbefore hduring
  obtain ⟨t, ht, hstrobe⟩ := strobe_shows_mask hp hc hb hbefore
  rw [hM, hW] at hstrobe
  obtain ⟨u, hu, hplayed⟩ := playback_follows_strobe hstrobe (read_waveOf_last snap) hduring
  refine ⟨t, u, ht, hstrobe.phase, ?_, hu, hplayed.phase, getLsbD_port_of_playedTo hplayed i.isLt⟩
  rw [hstrobe.port, getLsbD_maskOf snap _ i.isLt]
  rfl

/-! ## From the entry to Idle to the next Strobe (20_memory rules R77, R78) -/

/-- `n` ticks after the entry to Idle, up to the Strobe, with the driver free and the tables `M` and `W`. -/
structure Awaiting (M : Byte) (W : Memory) (n : Nat) (s : State) : Prop where
  phase : (s.ph, s.cnt) = phaseAfterReset n
  free : s.busy = false
  mask : s.M = M
  wave : s.W = W
  settled : Settled s

theorem phaseAfterReset_ne_playback {n : Nat} (hn : n ≤ 17) : (phaseAfterReset n).1 ≠ .playback := by
  rcases Nat.lt_or_eq_of_le hn with hlt | rfl
  · rw [phaseAfterReset, if_pos (by omega)]; nofun
  · decide

/-- Outside Playback `settle()` starts no playback. -/
theorem settle_free {s : State} (hb : s.busy = false) (hp : s.ph ≠ .playback) : (settle s).busy = false := by
  rcases settle_cases s with ⟨-, he⟩ | ⟨-, -, he⟩ | ⟨-, hp', -⟩ | ⟨-, -, -, he⟩ | ⟨-, -, -, -, he⟩ |
    ⟨-, -, -, -, he⟩ | ⟨-, -, -, he⟩ | ⟨-, -, he⟩
  case inr.inr.inl => exact absurd hp' hp
  all_goals rw [he]; exact hb

theorem handle_tick_awaiting {M : Byte} {W : Memory} {n : Nat} (hn : n < 17) {s t : State} (h : Awaiting M W n s)
    (ht : handle .tick s = .next t) : Awaiting M W (n + 1) t := by
  have hphase : ((tickHandler s).ph, (tickHandler s).cnt) = phaseAfterReset (n + 1) :=
    tickHandler_phaseAfterReset (by omega) h.phase
  have hp : (tickHandler s).ph ≠ .playback := fun hp =>
    phaseAfterReset_ne_playback (show n + 1 ≤ 17 by omega) (hphase ▸ hp)
  cases ht
  have hphase' : ((settle (tickHandler s)).ph, (settle (tickHandler s)).cnt) = phaseAfterReset (n + 1) := by
    rw [settle_ph, settle_cnt, hphase]
  obtain ⟨hM, hW⟩ := handle_keeps_tables (handle_tick s)
    (hphase' ▸ phaseAfterReset_ne_entry (Nat.succ_pos n) (by omega))
  exact ⟨hphase', settle_free ((tickHandler_busy s).trans h.free) hp, hM.trans h.mask, hW.trans h.wave,
    settled_settle _⟩

theorem handle_other_awaiting {M : Byte} {W : Memory} {n : Nat} {e : Event} (hr : e ≠ .reset) (he : e ≠ .tick)
    {s t : State} (h : Awaiting M W n s) (ht : handle e s = .next t) : Awaiting M W n t := by
  cases e with
  | reset => exact absurd rfl hr
  | tick => exact absurd rfl he
  | rx b =>
    rw [handle_rx_of_settled h.settled] at ht
    cases ht
    have hphase : ((rxHandler b s).ph, (rxHandler b s).cnt) = phaseAfterReset n := by
      rw [rxHandler_ph, rxHandler_cnt, h.phase]
    exact ⟨hphase, (rxHandler_busy b s).trans h.free, (rxHandler_M b s).trans h.mask, (rxHandler_W b s).trans h.wave,
      settled_rxHandler h.settled b⟩
  | step =>
    rw [handle_step_free h.free, h.settled] at ht
    cases ht
    exact h

/-- Settles O50: the first `TICK` builds, and the tables stay until the Strobe shows the mask. -/
theorem buildReachesThePortAtTheNextStrobe : Obligations.BuildReachesThePortAtTheNextStrobe := by
  intro es s t hinv hp hb hr hn hhead h
  obtain ⟨es, rfl⟩ : ∃ es', es = .tick :: es' := List.head?_eq_some_iff.mp hhead
  obtain ⟨u, hu, hrun⟩ := andThen_eq_next.mp h
  have hl : s.built = false := by
    have hlatch : (settle s).built = s.built := congrArg State.built hinv.settled
    rw [settle_playback_waiting hb hp (hinv.rdyIsBusy.trans hb)] at hlatch
    exact hlatch.symm
  have hbuilt : Awaiting (maskOf (snapshot s.T)) (waveOf (snapshot s.T)) 0 u := by
    have hsettled : Settled (settle (tickHandler s)) := settled_settle _
    rw [handle_tick] at hu
    cases hu
    rw [tick_playback_free hb hp hl] at hsettled ⊢
    exact ⟨rfl, hb, rfl, rfl, hsettled⟩
  have hcount : es.count .tick = 17 := by simpa using hn
  have hend : Awaiting (maskOf (snapshot s.T)) (waveOf (snapshot s.T)) (es.count .tick) t :=
    runEvents_counting (fun n hlt _ _ => handle_tick_awaiting hlt)
      (fun e he hne _ _ _ _ => handle_other_awaiting (fun heq => hr (heq ▸ List.mem_cons_of_mem _ he)) hne) hbuilt
      (Nat.le_of_eq hcount) hrun
  have hstrobe : t.ph = .strobe := by
    have hphase := hend.phase
    rw [hcount] at hphase
    exact (Prod.mk.inj hphase).1
  have hport : (settle t).port = t.port := congrArg State.port hend.settled
  rw [settle_strobe hend.free hstrobe] at hport
  exact ⟨hstrobe, hport.symm.trans hend.mask, hend.wave⟩

end Sys2Proof.Machine
end
